-- ==== Sys2Proof/Word.lean ====
section
/-! DEFINITION. The widths of the values the block handles (spec 00 R9, R10; 10 R17, R28; 30 R58). -/

namespace Sys2Proof

/-- One byte of a memory window (10 R27), or a status code (10 R17). -/
abbrev Byte := BitVec 8

/-- A 16-bit register value or register operand (10 R28, 30 R58 field A). -/
abbrev Half := BitVec 16

/-- A 64-bit result value, operand B, or tick count (10 R17, 30 R58, 10 R26). -/
abbrev Word64 := BitVec 64

/-- A 128-bit command word (30 R58). -/
abbrev CmdWord := BitVec 128

/-- G, the nanoseconds per second (00 R10). -/
def nsPerSecond : Nat := 1000000000

end Sys2Proof
end

