-- ==== Sys2Proof/Syntax.lean ====
section
/-! DEFINITION. The names the commands use (channels, windows, time fields, registers) and the 20 commands
of the block (spec 30 R60), one constructor per row of the opcode table. -/

namespace Sys2Proof

/-- The four DMA channels, in the numbering of 10 R16. -/
inductive Chan where
  /-- channel 0, host to fabric -/
  | framerMm2s
  /-- channel 1, fabric to host -/
  | framerS2mm
  /-- channel 2, host to fabric -/
  | deframerMm2s
  /-- channel 3, fabric to host -/
  | deframerS2mm
  deriving DecidableEq, Repr, Inhabited

/-- The direction of a channel (00 R13, 10 R16). -/
inductive Dir where
  /-- write-direction: host data into the fabric -/
  | mm2s
  /-- read-direction: fabric data into host memory -/
  | s2mm
  deriving DecidableEq, Repr, Inhabited

/-- The four mapped windows (10 R22, 00 R4, 92 D44, and the table and quotation of 20 R39). DESIGN CHOICE: the sentence of
20 R39 that counts five address spaces names no fifth, and the model has none (assumption 27). -/
inductive Window where
  | reg
  | framer
  | deframer
  | test
  deriving DecidableEq, Repr, Inhabited

/-- The index of a 16-bit time field (10 R26, R33). -/
inductive TimeField where
  | t0
  | t1
  | t2
  | t3
  deriving DecidableEq, Repr, Inhabited

/-- The registers of the register window (10 R28). -/
inductive Reg where
  | sentinel
  | version
  | reset
  | loopback
  | time (k : TimeField)
  | timeCtrl
  | ctrl (c : Chan)
  | status (c : Chan)
  | ready
  deriving DecidableEq, Repr, Inhabited

/-- One value for each channel. -/
structure PerChan (α : Type) where
  c0 : α
  c1 : α
  c2 : α
  c3 : α
  deriving DecidableEq, Repr, Inhabited

/-- One value for each time field. -/
structure PerField (α : Type) where
  f0 : α
  f1 : α
  f2 : α
  f3 : α
  deriving DecidableEq, Repr, Inhabited

namespace PerChan

variable {α : Type}

/-- The value of channel `c`. -/
def get (p : PerChan α) : Chan → α
  | .framerMm2s => p.c0
  | .framerS2mm => p.c1
  | .deframerMm2s => p.c2
  | .deframerS2mm => p.c3

/-- `p` with the value of channel `c` replaced. -/
def set (p : PerChan α) (c : Chan) (a : α) : PerChan α :=
  match c with
  | .framerMm2s => { p with c0 := a }
  | .framerS2mm => { p with c1 := a }
  | .deframerMm2s => { p with c2 := a }
  | .deframerS2mm => { p with c3 := a }

/-- The same value for every channel. -/
def all (a : α) : PerChan α := ⟨a, a, a, a⟩

end PerChan

namespace PerField

variable {α : Type}

/-- The value of time field `k`. -/
def get (p : PerField α) : TimeField → α
  | .t0 => p.f0
  | .t1 => p.f1
  | .t2 => p.f2
  | .t3 => p.f3

/-- `p` with the value of time field `k` replaced. -/
def set (p : PerField α) (k : TimeField) (a : α) : PerField α :=
  match k with
  | .t0 => { p with f0 := a }
  | .t1 => { p with f1 := a }
  | .t2 => { p with f2 := a }
  | .t3 => { p with f3 := a }

/-- The same value for every time field. -/
def all (a : α) : PerField α := ⟨a, a, a, a⟩

end PerField

/-- The 20 commands (30 R60), with their operands assembled as 30 R59 says. -/
inductive Instr where
  /-- REG_RD off (40 R73) -/
  | regRd (off : Half)
  /-- REG_WR off, value (40 R74) -/
  | regWr (off : Half) (value : Word64)
  /-- MEM_RD8 w, a (40 R75) -/
  | memRd8 (w : Window) (a : Word64)
  /-- MEM_WR8 w, a, byte (40 R76) -/
  | memWr8 (w : Window) (a : Word64) (byte : Byte)
  /-- OPEN hash, seed (41 R84) -/
  | openDev (hash : Word64) (seed : Half)
  /-- CLOSE (41 R85) -/
  | closeDev
  /-- TBL_NUM_AVAIL c (42 R93) -/
  | tblNumAvail (c : Chan)
  /-- TBL_ACQ_HEAD c (42 R94) -/
  | tblAcqHead (c : Chan)
  /-- TBL_MARK_REL c, h (42 R95) -/
  | tblMarkRel (c : Chan) (h : Half)
  /-- TBL_MARK_TAIL c, bytes (42 R96) -/
  | tblMarkTail (c : Chan) (bytes : Word64)
  /-- TBL_OFFSET c, h (42 R97) -/
  | tblOffset (c : Chan) (h : Half)
  /-- TBL_BUFF c, h (42 R98) -/
  | tblBuff (c : Chan) (h : Half)
  /-- TBL_BPF c (42 R99) -/
  | tblBpf (c : Chan)
  /-- CH_ACQUIRE c, timeoutUs (43 R100) -/
  | chAcquire (c : Chan) (timeoutUs : Word64)
  /-- CH_TRY_ACQUIRE c (43 R101) -/
  | chTryAcquire (c : Chan)
  /-- CH_RELEASE c, h, length (43 R102) -/
  | chRelease (c : Chan) (h : Half) (length : Word64)
  /-- CH_BUFFER c, h (43 R103) -/
  | chBuffer (c : Chan) (h : Half)
  /-- POLL_DRAIN c (44 R112) -/
  | pollDrain (c : Chan)
  /-- CLK_GET (45 R117) -/
  | clkGet
  /-- CLK_SET ns (45 R118) -/
  | clkSet (ns : Word64)
  deriving DecidableEq, Repr, Inhabited

end Sys2Proof
end

