-- ==== Sys2Proof/WellFormed.lean ====
section
/-! DEFINITION. Which terms of `Instr` are commands of the block. Channel, handle and value operands are well formed
by their types; the one check left is the window of a frame-memory command (spec 30 R59, R62; 20 R41). -/

namespace Sys2Proof

/-- MEM_RD8 and MEM_WR8 name FRAMER, DEFRAMER or TEST; a byte access to the register window has no encoding
(20 R41, 30 R59). -/
def Window.isMemory : Window → Bool
  | .reg => false
  | .framer => true
  | .deframer => true
  | .test => true

/-- A well-formed command. -/
def Instr.wellFormed : Instr → Bool
  | .regRd _ => true
  | .regWr _ _ => true
  | .memRd8 w _ => w.isMemory
  | .memWr8 w _ _ => w.isMemory
  | .openDev _ _ => true
  | .closeDev => true
  | .tblNumAvail _ => true
  | .tblAcqHead _ => true
  | .tblMarkRel _ _ => true
  | .tblMarkTail _ _ => true
  | .tblOffset _ _ => true
  | .tblBuff _ _ => true
  | .tblBpf _ => true
  | .chAcquire _ _ => true
  | .chTryAcquire _ => true
  | .chRelease _ _ _ => true
  | .chBuffer _ _ => true
  | .pollDrain _ => true
  | .clkGet => true
  | .clkSet _ => true

end Sys2Proof
end

