-- ==== Sys2Proof/Decode.lean ====
section
/-! DEFINITION. The command encoding (spec 30): the fields of the 128-bit word, the opcode table with its match and
mask pairs, the decoder (total, refusing by name), and the encoder. -/

namespace Sys2Proof

/-! ## Fields (30 R58) -/

/-- OP, W[127:120]. -/
def fieldOp (w : CmdWord) : BitVec 8 := w.extractLsb' 120 8

/-- CH, W[119:112]. -/
def fieldCh (w : CmdWord) : BitVec 8 := w.extractLsb' 112 8

/-- A, W[111:96]. -/
def fieldA (w : CmdWord) : Half := w.extractLsb' 96 16

/-- Z, W[95:64], reserved and 0 in every command. -/
def fieldZ (w : CmdWord) : BitVec 32 := w.extractLsb' 64 32

/-- B, W[63:0]. -/
def fieldB (w : CmdWord) : Word64 := w.extractLsb' 0 64

/-- The channel operand CH[1:0] (30 R59, numbering of 10 R16). -/
def chanOfField (ch : BitVec 8) : Chan :=
  match ch.extractLsb' 0 2 with
  | 0 => .framerMm2s
  | 1 => .framerS2mm
  | 2 => .deframerMm2s
  | _ => .deframerS2mm

/-- The window operand (30 R59): 0 FRAMER, 1 DEFRAMER, 2 TEST; 3 is illegal (30 R61). -/
def windowOfField (ch : BitVec 8) : Option Window :=
  match ch.extractLsb' 0 2 with
  | 0 => some .framer
  | 1 => some .deframer
  | 2 => some .test
  | _ => none

/-! ## The opcode table (30 R60, R61) -/

/-- What a row's CH field holds. -/
inductive ChUse where
  | zero
  | channel
  | window
  deriving DecidableEq, Repr, Inhabited

/-- One row of the opcode table: its match and mask words, what CH holds, and the command its fields make
(`none` only for a window operand of 3). -/
structure OpRow where
  mnemonic : String
  pattern : CmdWord
  mask : CmdWord
  ch : ChUse
  build : CmdWord → Option Instr

/-- (W AND mask) = match (30 R61). -/
def OpRow.matches (r : OpRow) (w : CmdWord) : Bool := (w &&& r.mask) == r.pattern

/-- Rows 0x01 to 0x11. -/
def opcodeRowsAccess : List OpRow :=
  [ ⟨"REG_RD", 0x01000000000000000000000000000000, 0xffff0000ffffffffffffffffffffffff, .zero,
      fun w => some (.regRd (fieldA w))⟩,
    ⟨"REG_WR", 0x02000000000000000000000000000000, 0xffff0000ffffffff0000000000000000, .zero,
      fun w => some (.regWr (fieldA w) (fieldB w))⟩,
    ⟨"MEM_RD8", 0x03000000000000000000000000000000, 0xfffcffffffffffff0000000000000000, .window,
      fun w => (windowOfField (fieldCh w)).map fun win => .memRd8 win (fieldB w)⟩,
    ⟨"MEM_WR8", 0x04000000000000000000000000000000, 0xfffcff00ffffffff0000000000000000, .window,
      fun w => (windowOfField (fieldCh w)).map fun win => .memWr8 win (fieldB w) ((fieldA w).extractLsb' 0 8)⟩,
    ⟨"OPEN", 0x10000000000000000000000000000000, 0xffff0000ffffffff0000000000000000, .zero,
      fun w => some (.openDev (fieldB w) (fieldA w))⟩,
    ⟨"CLOSE", 0x11000000000000000000000000000000, 0xffffffffffffffffffffffffffffffff, .zero,
      fun _ => some .closeDev⟩ ]

/-- Rows 0x20 to 0x26. -/
def opcodeRowsTable : List OpRow :=
  [ ⟨"TBL_NUM_AVAIL", 0x20000000000000000000000000000000, 0xfffcffffffffffffffffffffffffffff, .channel,
      fun w => some (.tblNumAvail (chanOfField (fieldCh w)))⟩,
    ⟨"TBL_ACQ_HEAD", 0x21000000000000000000000000000000, 0xfffcffffffffffffffffffffffffffff, .channel,
      fun w => some (.tblAcqHead (chanOfField (fieldCh w)))⟩,
    ⟨"TBL_MARK_REL", 0x22000000000000000000000000000000, 0xfffc0000ffffffffffffffffffffffff, .channel,
      fun w => some (.tblMarkRel (chanOfField (fieldCh w)) (fieldA w))⟩,
    ⟨"TBL_MARK_TAIL", 0x23000000000000000000000000000000, 0xfffcffffffffffff0000000000000000, .channel,
      fun w => some (.tblMarkTail (chanOfField (fieldCh w)) (fieldB w))⟩,
    ⟨"TBL_OFFSET", 0x24000000000000000000000000000000, 0xfffc0000ffffffffffffffffffffffff, .channel,
      fun w => some (.tblOffset (chanOfField (fieldCh w)) (fieldA w))⟩,
    ⟨"TBL_BUFF", 0x25000000000000000000000000000000, 0xfffc0000ffffffffffffffffffffffff, .channel,
      fun w => some (.tblBuff (chanOfField (fieldCh w)) (fieldA w))⟩,
    ⟨"TBL_BPF", 0x26000000000000000000000000000000, 0xfffcffffffffffffffffffffffffffff, .channel,
      fun w => some (.tblBpf (chanOfField (fieldCh w)))⟩ ]

/-- Rows 0x30 to 0x41. -/
def opcodeRowsChannel : List OpRow :=
  [ ⟨"CH_ACQUIRE", 0x30000000000000000000000000000000, 0xfffcffffffffffff0000000000000000, .channel,
      fun w => some (.chAcquire (chanOfField (fieldCh w)) (fieldB w))⟩,
    ⟨"CH_TRY_ACQUIRE", 0x31000000000000000000000000000000, 0xfffcffffffffffffffffffffffffffff, .channel,
      fun w => some (.chTryAcquire (chanOfField (fieldCh w)))⟩,
    ⟨"CH_RELEASE", 0x32000000000000000000000000000000, 0xfffc0000ffffffff0000000000000000, .channel,
      fun w => some (.chRelease (chanOfField (fieldCh w)) (fieldA w) (fieldB w))⟩,
    ⟨"CH_BUFFER", 0x33000000000000000000000000000000, 0xfffc0000ffffffffffffffffffffffff, .channel,
      fun w => some (.chBuffer (chanOfField (fieldCh w)) (fieldA w))⟩,
    ⟨"POLL_DRAIN", 0x38000000000000000000000000000000, 0xfffcffffffffffffffffffffffffffff, .channel,
      fun w => some (.pollDrain (chanOfField (fieldCh w)))⟩,
    ⟨"CLK_GET", 0x40000000000000000000000000000000, 0xffffffffffffffffffffffffffffffff, .zero,
      fun _ => some .clkGet⟩,
    ⟨"CLK_SET", 0x41000000000000000000000000000000, 0xffffffffffffffff0000000000000000, .zero,
      fun w => some (.clkSet (fieldB w))⟩ ]

/-- The opcode map (30 R60). -/
def opcodeTable : List OpRow := opcodeRowsAccess ++ opcodeRowsTable ++ opcodeRowsChannel

/-! ## The decoder (30 R61, R62) -/

/-- Why a command word is illegal, one name per item of 30 R62. All are one fault, ILLEGAL_COMMAND. -/
inductive Illegal where
  /-- OP is no opcode of 30 R60 -/
  | unassignedOpcode
  /-- Z ≠ 0 -/
  | reservedNotZero
  /-- a channel command with CH ≥ 4 -/
  | channelOutOfRange
  /-- a memory command with CH ≥ 3 -/
  | windowOutOfRange
  /-- a field that the table marks 0, or MEM_WR8's A[15:8], is not 0 -/
  | fieldNotZero
  deriving DecidableEq, Repr, Inhabited

/-- The name under which a word that no row accepts is refused. -/
def illegalReason (w : CmdWord) : Illegal :=
  match opcodeTable.find? fun r => r.pattern.extractLsb' 120 8 == fieldOp w with
  | none => .unassignedOpcode
  | some r =>
    if fieldZ w ≠ 0 then .reservedNotZero
    else if r.ch = .channel ∧ 4 ≤ (fieldCh w).toNat then .channelOutOfRange
    else if r.ch = .window ∧ 3 ≤ (fieldCh w).toNat then .windowOutOfRange
    else .fieldNotZero

/-- `decode` (30 R61): total on 128-bit words. -/
def decode (w : CmdWord) : Except Illegal Instr :=
  match opcodeTable.find? fun r => r.matches w with
  | none => .error (illegalReason w)
  | some r =>
    match r.build w with
    | some i => .ok i
    | none => .error .windowOutOfRange

/-! ## The encoder (30 R58, R60) -/

/-- The word with the given fields and Z = 0. -/
def packWord (op ch : BitVec 8) (a : Half) (b : Word64) : CmdWord :=
  op ++ ch ++ a ++ (0 : BitVec 32) ++ b

/-- The channel number (10 R16). -/
def Chan.field : Chan → BitVec 8
  | .framerMm2s => 0
  | .framerS2mm => 1
  | .deframerMm2s => 2
  | .deframerS2mm => 3

/-- The window number (30 R59). REG has none: 3 is the illegal operand. -/
def Window.field : Window → BitVec 8
  | .framer => 0
  | .deframer => 1
  | .test => 2
  | .reg => 3

/-- OP of a command (30 R60). -/
def Instr.opcode : Instr → BitVec 8
  | .regRd _ => 0x01
  | .regWr _ _ => 0x02
  | .memRd8 _ _ => 0x03
  | .memWr8 _ _ _ => 0x04
  | .openDev _ _ => 0x10
  | .closeDev => 0x11
  | .tblNumAvail _ => 0x20
  | .tblAcqHead _ => 0x21
  | .tblMarkRel _ _ => 0x22
  | .tblMarkTail _ _ => 0x23
  | .tblOffset _ _ => 0x24
  | .tblBuff _ _ => 0x25
  | .tblBpf _ => 0x26
  | .chAcquire _ _ => 0x30
  | .chTryAcquire _ => 0x31
  | .chRelease _ _ _ => 0x32
  | .chBuffer _ _ => 0x33
  | .pollDrain _ => 0x38
  | .clkGet => 0x40
  | .clkSet _ => 0x41

/-- The command word of a command (30 R59, R60). -/
def encode (i : Instr) : CmdWord :=
  match i with
  | .regRd off => packWord i.opcode 0 off 0
  | .regWr off v => packWord i.opcode 0 off v
  | .memRd8 w a => packWord i.opcode w.field 0 a
  | .memWr8 w a b => packWord i.opcode w.field (b.setWidth 16) a
  | .openDev hash seed => packWord i.opcode 0 seed hash
  | .closeDev => packWord i.opcode 0 0 0
  | .tblNumAvail c => packWord i.opcode c.field 0 0
  | .tblAcqHead c => packWord i.opcode c.field 0 0
  | .tblMarkRel c h => packWord i.opcode c.field h 0
  | .tblMarkTail c n => packWord i.opcode c.field 0 n
  | .tblOffset c h => packWord i.opcode c.field h 0
  | .tblBuff c h => packWord i.opcode c.field h 0
  | .tblBpf c => packWord i.opcode c.field 0 0
  | .chAcquire c us => packWord i.opcode c.field 0 us
  | .chTryAcquire c => packWord i.opcode c.field 0 0
  | .chRelease c h n => packWord i.opcode c.field h n
  | .chBuffer c h => packWord i.opcode c.field h 0
  | .pollDrain c => packWord i.opcode c.field 0 0
  | .clkGet => packWord i.opcode 0 0 0
  | .clkSet ns => packWord i.opcode 0 0 ns

/-- The command word given as a number of `nbits` bits, the bits above them 0. A command word is one number, so no
byte order applies (30 R58). -/
def tableWord (nbits w : Nat) : CmdWord := BitVec.ofNat 128 (w % 2 ^ nbits)

/-- What the decoder reads from a word numbered as the opcode table numbers it. -/
def decodeTableWord (nbits w : Nat) : Option Instr :=
  match decode (tableWord nbits w) with
  | .ok i => some i
  | .error _ => none

end Sys2Proof
end

