-- ==== Sys2Proof/Config.lean ====
section
/-! DEFINITION. What is fixed for a run and what is left free: the implementation parameters of spec 00 R7 with
their reference values, the agents of 10 R14, and the free values (the answers of the spec's `draw`, 00 R11, the
choice of the next agent, and the self-test generators, which the spec leaves OPEN, D41). -/

namespace Sys2Proof

/-- The agents (10 R14). The argument of `host` is the thread number. -/
inductive Agent where
  | host (t : Nat)
  | dma (c : Chan)
  | clock
  | loader
  deriving DecidableEq, Repr, Inhabited

/-- Which edge of a TIME_CTRL latch bit acts (00 R7 LATCH_EDGE, D10). -/
inductive Edge where
  | rising
  | falling
  deriving DecidableEq, Repr, Inhabited

/-- The fabric image (10 R25): of unknown identity, or loaded and presenting a sentinel and a version. -/
inductive Image where
  | unknown
  | loaded (sentinel version : Half)
  deriving DecidableEq, Repr, Inhabited

/-- REGMAP: the byte offset of every register (10 R28, D7). -/
structure RegMap where
  sentinel : Nat
  version : Nat
  reset : Nat
  loopback : Nat
  time : PerField Nat
  timeCtrl : Nat
  ctrl : PerChan Nat
  status : PerChan Nat
  ready : Nat
  deriving DecidableEq, Repr, Inhabited

/-- The implementation parameters (00 R7), less `NCH`, which is fixed at 4, and the two self-test generators,
which are free functions below. -/
structure Config where
  /-- N[c], the frame count of channel c's table -/
  capacity : PerChan Nat
  /-- F[c], the bytes per frame -/
  frameBytes : PerChan Nat
  /-- BASE[c], the offset of the table region in its window -/
  base : PerChan Nat
  /-- WIN_BYTES[FRAMER] -/
  framerBytes : Nat
  /-- WIN_BYTES[DEFRAMER] -/
  deframerBytes : Nat
  /-- WIN_BYTES[TEST] -/
  testBytes : Nat
  /-- REG_WIN_BYTES -/
  regWinBytes : Nat
  regMap : RegMap
  /-- READY_BIT[c] -/
  readyBit : PerChan Nat
  tcInBit : Nat
  tcOutBit : Nat
  latchEdge : Edge
  sentinelExpected : Half
  versionExpected : Half
  poweronImage : Image
  imgSentinel : Half
  imgVersion : Half
  clockRateHz : Nat
  selftestIters : Nat
  /-- POLL_INTERVAL_US: carried and read by no rule (70 R152, D50) -/
  pollIntervalUs : Nat
  /-- T, the number of host threads -/
  threads : Nat
  /-- OWNER[c] -/
  owner : PerChan Nat
  fabricResponds : Bool
  fabricFaithful : Bool
  /-- FABRIC_QUEUE_DEPTH[c] -/
  queueDepth : PerChan Nat
  deriving DecidableEq, Repr, Inhabited

/-- The reference register map (10 R28). -/
def RegMap.reference : RegMap where
  sentinel := 0x00
  version := 0x02
  reset := 0x04
  loopback := 0x06
  time := ⟨0x08, 0x0A, 0x0C, 0x0E⟩
  timeCtrl := 0x10
  ctrl := ⟨0x20, 0x24, 0x28, 0x2C⟩
  status := ⟨0x22, 0x26, 0x2A, 0x2E⟩
  ready := 0x30

/-- The reference configuration (00 R7, 95 section 0). -/
def Config.reference : Config where
  capacity := .all 4
  frameBytes := .all 256
  base := ⟨0x000, 0x400, 0x000, 0x400⟩
  framerBytes := 0x800
  deframerBytes := 0x800
  testBytes := 0x100
  regWinBytes := 0x40
  regMap := RegMap.reference
  readyBit := ⟨0, 1, 2, 3⟩
  tcInBit := 0
  tcOutBit := 1
  latchEdge := .rising
  sentinelExpected := 0x5A5A
  versionExpected := 0x0003
  poweronImage := .unknown
  imgSentinel := 0x5A5A
  imgVersion := 0x0003
  clockRateHz := 100000000
  selftestIters := 100
  pollIntervalUs := 1000
  threads := 1
  owner := .all 0
  fabricResponds := true
  fabricFaithful := true
  queueDepth := .all 4

/-- FREE VALUE. The answer of the k-th `draw` (00 R11) that the run's own list of answers does not give.
No body: nothing constrains it (assumption 3). -/
opaque Config.freeWord : Nat → Word64

/-- FREE VALUE. The agent that the k-th unscripted choice schedules (10 R14: any enabled agent may be scheduled
at any step). No body (assumption 4). -/
opaque Config.freeAgent : Nat → Agent

/-- FREE VALUE. PRNG16(seed, i), the register self-test generator, OPEN in 00 R7 (D41, assumption 5). -/
opaque Config.prng16 : Half → Nat → Half

/-- FREE VALUE. PRNG8(seed, i), the memory self-test generator, OPEN in 00 R7 (D41, assumption 5). -/
opaque Config.prng8 : Half → Nat → Byte

end Sys2Proof
end

