-- ==== Sys2Proof/Machine/State.lean ====
section
/-! DEFINITION. The state of the block (spec 10), as plain data: the program points of a command in progress, the
tables, the fault records, the fabric, the clock, the memory windows, and the parameters of the run that 10 R15 names
(configuration, command streams, schedule, draw answers), which every step only reads. -/

namespace Sys2Proof.Machine

open Sys2Proof

/-! ## Program points (10 R20) -/

/-- Where a command is in DrainChannel (44 R110). `n` counts the completions retired so far. -/
inductive DrainPoint where
  /-- before `RegRead(OFF_READY)` -/
  | ready (n : Nat)
  /-- before `RegRead(OFF_STATUS[c])`, S2MM only -/
  | status (n : Nat)
  /-- before `MarkTail(c, amount)`, an internal step -/
  | mark (n : Nat) (amount : Nat)
  /-- before `RegWrite(OFF_STATUS[c], 0)` -/
  | ack (n : Nat)
  deriving DecidableEq, Repr, Inhabited

/-- The mapping steps of MapAll (41 R78). -/
inductive MapStep where
  | node
  | reg
  | framer
  | deframer
  deriving DecidableEq, Repr, Inhabited

/-- Where OPEN is, after its first step (41 R78 to R84). `s` and `v` are the sentinel and version read, `loaded` the
local of that name, `saved` the loopback value the self-test restores, `i` a loop index. -/
inductive OpenPoint where
  /-- before a mapping step, an internal step -/
  | map (m : MapStep)
  /-- before the energising `RegRead(OFF_SENTINEL)` -/
  | energise
  | sentinel
  | version (s : Half)
  | loopback (s v : Half)
  /-- waiting for the LOADER's step `Load()` (41 R80) -/
  | load
  | recheckSentinel
  | recheckVersion (s : Half)
  | resetSet (loaded : Bool)
  | resetClear (loaded : Bool)
  | tag (loaded : Bool)
  | save (loaded : Bool)
  | regWrite (loaded : Bool) (saved : Half) (i : Nat)
  | regRead (loaded : Bool) (saved : Half) (i : Nat)
  | restore (loaded : Bool) (saved : Half)
  /-- before the TEST mapping step, an internal step -/
  | mapTest (loaded : Bool)
  | memWrite (loaded : Bool) (i : Nat)
  | memRead (loaded : Bool) (i : Nat)
  deriving DecidableEq, Repr, Inhabited

/-- Where CLK_GET is, after its first write (45 R117), with the fields read so far. -/
inductive ClkGetPoint where
  | latchClear
  | field0
  | field1 (f0 : Half)
  | field2 (f0 f1 : Half)
  | field3 (f0 f1 f2 : Half)
  deriving DecidableEq, Repr, Inhabited

/-- Where CLK_SET is, after its write of TIME0 (45 R118). -/
inductive ClkSetPoint where
  | field1
  | field2
  | field3
  | latchOut
  | latchClear
  deriving DecidableEq, Repr, Inhabited

/-- The program point of a command in progress. `start` is the first program point of every command. -/
inductive Point where
  | start
  | drain (d : DrainPoint)
  /-- CH_ACQUIRE's `wait` (43 R100) -/
  | wait
  /-- CH_RELEASE, before its first CTRLc write (43 R102) -/
  | relStart
  /-- CH_RELEASE on an MM2S channel, before its second CTRLc write -/
  | relEnd
  | clkGet (p : ClkGetPoint)
  | clkSet (p : ClkSetPoint)
  | opening (p : OpenPoint)
  /-- part-way through when CLOSE ran: its next step raises NOT_OPEN, whatever `dev` is by then (60 R122; log
  entry 20) -/
  | cut
  deriving DecidableEq, Repr, Inhabited

/-- `cur[t]` when it is not none: the command in progress with its micro-state (10 R20). -/
structure Running where
  instr : Instr
  point : Point
  deriving DecidableEq, Repr, Inhabited

/-! ## Host threads (10 R17, R18, R20) -/

/-- The state of one host thread. The result registers are `none` until a command writes them: at power-on they
"hold no value" (10 R18, R38). `stream` is the thread's command stream, a parameter of the run (10 R15). -/
structure Thread where
  cp : Nat
  running : Option Running
  rstat : Option Byte
  rv0 : Option Word64
  rv1 : Option Word64
  stream : List CmdWord
  deriving DecidableEq, Repr, Inhabited

/-- A thread at power-on with the given stream (10 R38). -/
def Thread.powerOn (stream : List CmdWord) : Thread :=
  { cp := 0, running := none, rstat := none, rv0 := none, rv1 := none, stream := stream }

/-! ## Tables and lifecycle (10 R22, R23) -/

/-- The state of a slot (42 R86). -/
inductive Slot where
  | free
  | inFlight
  | pending
  deriving DecidableEq, Repr, Inhabited

/-- `Tbl[c]` (10 R23). `slots` and `lens` hold one entry for each of the N[c] frames. -/
structure Table where
  head : Nat
  tail : Nat
  avail : Nat
  slots : List Slot
  lens : List Nat
  deriving DecidableEq, Repr, Inhabited

/-- `dev` with the tables, which exist exactly while it is OPEN (10 R22, R23). -/
inductive Dev where
  | closed
  | opening
  | opened (tables : PerChan Table)
  deriving DecidableEq, Repr, Inhabited

/-- The name of a `dev` state, as ALREADY_OPEN records it. -/
inductive DevPhase where
  | closed
  | opening
  | opened
  deriving DecidableEq, Repr, Inhabited

/-- `mapped` as a set of windows (10 R22). -/
structure Mapped where
  reg : Bool
  framer : Bool
  deframer : Bool
  test : Bool
  deriving DecidableEq, Repr, Inhabited

/-! ## Fault records (10 R24, 60 R125) -/

/-- The fault names of 60 R125. -/
inductive FaultCode where
  | illegalCommand
  | notOpen
  | alreadyOpen
  | invalidHandle
  | releaseOrder
  | completionOrder
  | tableOverflow
  | lengthRange
  | regUnmapped
  | regMisaligned
  | regAccess
  | memRange
  | frameOwnership
  | channelOwner
  | busNotEnergized
  | lifecycleOwner
  | dmaQueueOverflow
  | dmaRange
  deriving DecidableEq, Repr, Inhabited

/-- The info of a fault record, one form per row shape of 60 R125. -/
inductive FaultInfo where
  | word (w : CmdWord)
  | opcode (op : BitVec 8)
  | phase (d : DevPhase)
  | handle (c : Chan) (h : Nat)
  | order (c : Chan) (h first : Nat)
  | completion (c : Chan) (tail : Nat) (state : Slot)
  | chan (c : Chan)
  | length (c : Chan) (n : Nat)
  | offset (off : Nat)
  | access (off : Nat) (value : Half)
  | memory (w : Window) (a : Nat)
  | frame (c : Chan) (h a : Nat)
  | owner (c : Chan) (t : Nat)
  | thread (t : Nat)
  | range (c : Chan) (s n : Nat)
  deriving DecidableEq, Repr, Inhabited

/-- A fault record (60 R125): `index` is `cp[t]` for a host thread and none otherwise. -/
structure FaultRecord where
  code : FaultCode
  agent : Agent
  index : Option Nat
  info : FaultInfo
  deriving DecidableEq, Repr, Inhabited

/-! ## Fabric and memory (10 R25, R27) -/

/-- A DMA descriptor (10 R25): start and exclusive end for MM2S, start only for S2MM. -/
inductive Desc where
  | mm2s (first last : Half)
  | s2mm (first : Half)
  deriving DecidableEq, Repr, Inhabited

/-- The bytes of a window that hold a value, by strictly rising address. An address that is not listed is `none`,
unwritten (10 R27, R38); it reads as a draw (20 R47). -/
abbrev Memory := List Host.Cell

/-- The three memory windows (10 R27). -/
structure Windows where
  framer : Memory
  deframer : Memory
  test : Memory
  deriving DecidableEq, Repr, Inhabited

/-! ## The state -/

/-- The state of the block, with the parameters of the run. -/
structure State where
  /-- the configuration, a parameter (00 R7, 10 R15) -/
  cfg : Config
  /-- the agent whose step comes next -/
  turn : Agent
  /-- the scripted part of the schedule, a parameter: the agents that step after `turn` -/
  sched : List Agent
  /-- the scripted draw answers, a parameter (10 R15) -/
  answers : List Word64
  /-- how many free values have been used; the model's own counter -/
  drawn : Nat
  /-- the host threads, T of them -/
  threads : List Thread
  /-- `dev` and the tables -/
  dev : Dev
  mapped : Mapped
  busEnergized : Bool
  faults : List FaultRecord
  image : Image
  loopback : Option Half
  resetAsserted : Bool
  descQ : PerChan (List Desc)
  cmplQ : PerChan (List Half)
  /-- `mm2sStart[c]`; stays none for an S2MM channel -/
  mm2sStart : PerChan (Option Half)
  loadCount : Nat
  /-- `streamOut[c]`; stays empty for an S2MM channel -/
  streamOut : PerChan (List (List Byte))
  /-- `streamIn[c]`; stays empty for an MM2S channel -/
  streamIn : PerChan (List (List Byte))
  counter : Word64
  snap : PerField (Option Half)
  wr : PerField (Option Half)
  tc : Half
  mem : Windows
  deriving DecidableEq, Repr, Inhabited

/-- Why the machine stops. -/
inductive Fault where
  /-- Raised by `step` when `faults` is not empty: "from then on no agent has a step" (60 R126). Safe: it is the
  spec's own halt. -/
  | halted
  /-- Raised by the observation functions of Safety.lean on a result register that no command has written: "a model
  faults it; it must not pick a value" (10 R18). No command and no step raises it. Safe. -/
  | resultUnwritten
  deriving DecidableEq, Repr, Inhabited

/-- Why the model refuses. -/
inductive Refusal where
  /-- Raised by an arm of `exec` whose command has no meaning yet. Safe. No arm uses it. -/
  | notModelled (mnemonic : String)
  /-- Raised by `step` on a configuration that breaks 00 R8: "A model refuses any other configuration". Safe. -/
  | illFormedConfig
  /-- Raised by `exec i` at a state whose thread is in the middle of another command, or at a program point that
  command `i` does not have. `step` never asks for it on a state that a run reaches. Safe. -/
  | notInProgress
  deriving DecidableEq, Repr, Inhabited

/-- What one step answers. -/
abbrev Result := Host.Outcome State Fault Refusal

/-- The state at power-on (10 R38) under a configuration, with the command streams of the threads. The counter is a
draw; the first agent to step is free. -/
def State.powerOn (cfg : Config) (streams : List (List CmdWord)) : State where
  cfg := cfg
  turn := Config.freeAgent 0
  sched := []
  answers := []
  drawn := 1
  threads := streams.map Thread.powerOn
  dev := .closed
  mapped := ⟨false, false, false, false⟩
  busEnergized := false
  faults := []
  image := cfg.poweronImage
  loopback := none
  resetAsserted := false
  descQ := .all []
  cmplQ := .all []
  mm2sStart := .all none
  loadCount := 0
  streamOut := .all []
  streamIn := .all []
  counter := Config.freeWord 0
  snap := .all none
  wr := .all none
  tc := 0
  mem := ⟨[], [], []⟩

/-- Power-on in the reference configuration (one thread), with an empty command stream: no program is loaded
(assumption 6). -/
def State.reset : State := State.powerOn Config.reference [[]]

end Sys2Proof.Machine
end

