-- ==== Sys2Proof/Machine/Operands.lean ====
section
/-! DEFINITION. What the operands and parameters stand for: channel directions and windows (spec 10 R16), register
offsets (10 R28, 20 R43), table regions and frame offsets (20 R49), the tick conversions (45 R116), the ownership
class of a command (60 R121), and the well-formedness of a configuration (00 R7, R8). -/

namespace Sys2Proof

/-! ## Channels and windows -/

/-- dir(c) (10 R16). -/
def Chan.dir : Chan → Dir
  | .framerMm2s => .mm2s
  | .framerS2mm => .s2mm
  | .deframerMm2s => .mm2s
  | .deframerS2mm => .s2mm

/-- win(c) (10 R16). -/
def Chan.win : Chan → Window
  | .framerMm2s => .framer
  | .framerS2mm => .framer
  | .deframerMm2s => .deframer
  | .deframerS2mm => .deframer

/-- All four channels, in number order. -/
def Chan.list : List Chan := [.framerMm2s, .framerS2mm, .deframerMm2s, .deframerS2mm]

/-- winId (42 R98). -/
def Window.id (w : Window) : Word64 := w.field.setWidth 64

/-- WIN_BYTES[w]; for the register window REG_WIN_BYTES (20 R39). -/
def Config.winBytes (cfg : Config) : Window → Nat
  | .reg => cfg.regWinBytes
  | .framer => cfg.framerBytes
  | .deframer => cfg.deframerBytes
  | .test => cfg.testBytes

/-- Bytes of channel c's table region, N[c]·F[c]. -/
def Config.regionBytes (cfg : Config) (c : Chan) : Nat := cfg.capacity.get c * cfg.frameBytes.get c

/-- BASE[c] + N[c]·F[c], the exclusive end of channel c's table region. -/
def Config.regionEnd (cfg : Config) (c : Chan) : Nat := cfg.base.get c + cfg.regionBytes c

/-- frameOff(c, h) (20 R49). -/
def Config.frameOff (cfg : Config) (c : Chan) (h : Nat) : Nat := cfg.base.get c + h * cfg.frameBytes.get c

/-- The channel whose table region in window `w` holds byte `a`, if any (20 R44 step 3). -/
def Config.regionAt (cfg : Config) (w : Window) (a : Nat) : Option Chan :=
  Chan.list.find? fun c => decide (c.win = w) && decide (cfg.base.get c ≤ a) && decide (a < cfg.regionEnd c)

/-! ## Registers -/

/-- All registers (10 R28). -/
def Reg.list : List Reg :=
  [.sentinel, .version, .reset, .loopback, .time .t0, .time .t1, .time .t2, .time .t3, .timeCtrl,
    .ctrl .framerMm2s, .ctrl .framerS2mm, .ctrl .deframerMm2s, .ctrl .deframerS2mm,
    .status .framerMm2s, .status .framerS2mm, .status .deframerMm2s, .status .deframerS2mm, .ready]

/-- REGMAP (10 R28). -/
def RegMap.offset (m : RegMap) : Reg → Nat
  | .sentinel => m.sentinel
  | .version => m.version
  | .reset => m.reset
  | .loopback => m.loopback
  | .time k => m.time.get k
  | .timeCtrl => m.timeCtrl
  | .ctrl c => m.ctrl.get c
  | .status c => m.status.get c
  | .ready => m.ready

/-- The register at an offset, if any (10 R28). -/
def RegMap.regAt (m : RegMap) (off : Nat) : Option Reg := Reg.list.find? fun r => m.offset r == off

/-- OFF_r. -/
def Config.off (cfg : Config) (r : Reg) : Nat := cfg.regMap.offset r

/-- regCheck(off) (20 R43): odd offsets first, then unmapped ones. -/
def Config.regCheck (cfg : Config) (off : Nat) : Except Machine.FaultCode Reg :=
  if off % 2 = 1 then .error .regMisaligned
  else if cfg.regWinBytes ≤ off then .error .regUnmapped
  else match cfg.regMap.regAt off with
    | none => .error .regUnmapped
    | some r => .ok r

/-! ## Tick conversions (45 R116) -/

/-- ⌈a/b⌉ for b ≥ 1 (00 R10). -/
def ceilDiv (a b : Nat) : Nat := (a + b - 1) / b

/-- nsToTicks: rounds up, mod 2^64. -/
def Config.nsToTicks (cfg : Config) (ns : Word64) : Word64 :=
  BitVec.ofNat 64 (ceilDiv (ns.toNat * cfg.clockRateHz) nsPerSecond)

/-- ticksToNs: rounds down, mod 2^64. -/
def Config.ticksToNs (cfg : Config) (ticks : Word64) : Word64 :=
  BitVec.ofNat 64 (ticks.toNat * nsPerSecond / cfg.clockRateHz)

/-- Bits [16k+15 : 16k] of a tick count (10 R33, 20 R42). -/
def tickField (ticks : Word64) : TimeField → Half
  | .t0 => ticks.extractLsb' 0 16
  | .t1 => ticks.extractLsb' 16 16
  | .t2 => ticks.extractLsb' 32 16
  | .t3 => ticks.extractLsb' 48 16

/-- TIME3 ++ TIME2 ++ TIME1 ++ TIME0 (20 R42). -/
def joinTicks (f0 f1 f2 f3 : Half) : Word64 := f3 ++ f2 ++ f1 ++ f0

/-- The four fields of a tick count, as a latch-in takes them. -/
def tickFields (ticks : Word64) : PerField (Option Half) :=
  ⟨some (tickField ticks .t0), some (tickField ticks .t1), some (tickField ticks .t2), some (tickField ticks .t3)⟩

/-! ## The classes of command (60 R121) -/

/-- The channel whose owner must issue the command: table, channel and poller commands, OP 0x20 to 0x38. -/
def Instr.ownedChan : Instr → Option Chan
  | .regRd _ => none
  | .regWr _ _ => none
  | .memRd8 _ _ => none
  | .memWr8 _ _ _ => none
  | .openDev _ _ => none
  | .closeDev => none
  | .tblNumAvail c => some c
  | .tblAcqHead c => some c
  | .tblMarkRel c _ => some c
  | .tblMarkTail c _ => some c
  | .tblOffset c _ => some c
  | .tblBuff c _ => some c
  | .tblBpf c => some c
  | .chAcquire c _ => some c
  | .chTryAcquire c => some c
  | .chRelease c _ _ => some c
  | .chBuffer c _ => some c
  | .pollDrain c => some c
  | .clkGet => none
  | .clkSet _ => none

/-- Whether a command's first program point is a bus step. The others begin with an internal step, which follows the
entry step with no other agent between them (00 R12). -/
def Instr.startsOnBus : Instr → Bool
  | .regRd _ => true
  | .regWr _ _ => true
  | .memRd8 _ _ => true
  | .memWr8 _ _ _ => true
  | .openDev _ _ => false
  | .closeDev => false
  | .tblNumAvail _ => false
  | .tblAcqHead _ => false
  | .tblMarkRel _ _ => false
  | .tblMarkTail _ _ => false
  | .tblOffset _ _ => false
  | .tblBuff _ _ => false
  | .tblBpf _ => false
  | .chAcquire _ _ => true
  | .chTryAcquire _ => true
  | .chRelease _ _ _ => false
  | .chBuffer _ _ => false
  | .pollDrain _ => true
  | .clkGet => true
  | .clkSet _ => true

/-- OPEN or CLOSE. -/
def Instr.isLifecycle : Instr → Bool
  | .openDev _ _ => true
  | .closeDev => true
  | .regRd _ => false
  | .regWr _ _ => false
  | .memRd8 _ _ => false
  | .memWr8 _ _ _ => false
  | .tblNumAvail _ => false
  | .tblAcqHead _ => false
  | .tblMarkRel _ _ => false
  | .tblMarkTail _ _ => false
  | .tblOffset _ _ => false
  | .tblBuff _ _ => false
  | .tblBpf _ => false
  | .chAcquire _ _ => false
  | .chTryAcquire _ => false
  | .chRelease _ _ _ => false
  | .chBuffer _ _ => false
  | .pollDrain _ => false
  | .clkGet => false
  | .clkSet _ => false

/-- A command that breaks the correspondence of 43 R108 for channel `c` (70 R148): a raw write of CTRLc or STATUSc, a raw
write of 1 to RESET, or a table mark of that channel that the fabric does not know of. -/
def Instr.breaks (cfg : Config) (c : Chan) : Instr → Bool
  | .regWr off v =>
    off.toNat == cfg.off (.ctrl c) || off.toNat == cfg.off (.status c) ||
      (off.toNat == cfg.off .reset && v.setWidth 16 == (1 : Half))
  | .tblMarkRel d _ => d == c
  | .tblMarkTail d _ => d == c
  | .regRd _ => false
  | .memRd8 _ _ => false
  | .memWr8 _ _ _ => false
  | .openDev _ _ => false
  | .closeDev => false
  | .tblNumAvail _ => false
  | .tblAcqHead _ => false
  | .tblOffset _ _ => false
  | .tblBuff _ _ => false
  | .tblBpf _ => false
  | .chAcquire _ _ => false
  | .chTryAcquire _ => false
  | .chRelease _ _ _ => false
  | .chBuffer _ _ => false
  | .pollDrain _ => false
  | .clkGet => false
  | .clkSet _ => false

/-! ## Well-formed configurations (00 R7, R8) -/

/-- R8 (a) and (c), the ranges of N[c] and F[c] (R7), R8 (g) and (h), and the range of READY_BIT[c], for one
channel. -/
def Config.chanOk (cfg : Config) (c : Chan) : Bool :=
  decide (1 ≤ cfg.capacity.get c ∧ cfg.capacity.get c ≤ 65535 ∧ 1 ≤ cfg.frameBytes.get c ∧ cfg.frameBytes.get c ≤ 65535 ∧
    cfg.regionEnd c ≤ cfg.winBytes c.win ∧ cfg.regionEnd c ≤ 65535 ∧
    cfg.owner.get c < cfg.threads ∧ cfg.capacity.get c ≤ cfg.queueDepth.get c ∧ cfg.readyBit.get c ≤ 15)

/-- R8 (b): the regions of two channels do not meet. -/
def Config.disjoint (cfg : Config) (c d : Chan) : Bool :=
  decide (cfg.regionEnd c ≤ cfg.base.get d ∨ cfg.regionEnd d ≤ cfg.base.get c)

/-- R8 (d): every register offset is even and inside the register window, and no two are equal. -/
def Config.regMapOk (cfg : Config) : Bool :=
  (Reg.list.all fun r => decide (cfg.off r % 2 = 0 ∧ cfg.off r < cfg.regWinBytes)) &&
    decide (Reg.list.map cfg.off).Nodup

/-- R8 (e): the ready bits are distinct. -/
def Config.readyBitsOk (cfg : Config) : Bool := decide (Chan.list.map cfg.readyBit.get).Nodup

/-- R8 (f) with the ranges of the latch bits, and the remaining ranges of R7. -/
def Config.scalarsOk (cfg : Config) : Bool :=
  decide (cfg.tcInBit ≤ 15 ∧ cfg.tcOutBit ≤ 15 ∧ cfg.tcInBit ≠ cfg.tcOutBit ∧ 1 ≤ cfg.clockRateHz ∧
    1 ≤ cfg.threads ∧ cfg.regWinBytes ≤ 65536)

/-- A well-formed configuration (00 R8, with the ranges of 00 R7). -/
def Config.wf (cfg : Config) : Bool :=
  Chan.list.all cfg.chanOk && cfg.disjoint .framerMm2s .framerS2mm && cfg.disjoint .deframerMm2s .deframerS2mm &&
    cfg.regMapOk && cfg.readyBitsOk && cfg.scalarsOk

end Sys2Proof
end

