-- ==== Sys2Proof/Machine/Flags.lean ====
section
/-! DEFINITION. The numbers of the status and fault codes (spec 60 R123, R125), the bits of READY_STATUS (10 R37) and
the latch bits of TIME_CTRL with their edges (45 R115). The block has no condition flags (10 R21). -/

namespace Sys2Proof.Machine

open Sys2Proof

/-- The status of a completed command (60 R123). -/
inductive Status where
  | ok
  | noneAvailable
  | timeout
  | deviceOpenFailure
  | bringupSentinel
  | bringupVersion
  | selftestReg
  | selftestMem
  deriving DecidableEq, Repr, Inhabited

/-- The code that RSTAT takes (60 R123). -/
def Status.code : Status → Byte
  | .ok => 0x00
  | .noneAvailable => 0x01
  | .timeout => 0x02
  | .deviceOpenFailure => 0x10
  | .bringupSentinel => 0x11
  | .bringupVersion => 0x12
  | .selftestReg => 0x13
  | .selftestMem => 0x14

/-- The code of a fault (60 R125). -/
def FaultCode.code : FaultCode → Byte
  | .illegalCommand => 0x80
  | .notOpen => 0x81
  | .alreadyOpen => 0x82
  | .invalidHandle => 0x83
  | .releaseOrder => 0x84
  | .completionOrder => 0x85
  | .tableOverflow => 0x86
  | .lengthRange => 0x87
  | .regUnmapped => 0x88
  | .regMisaligned => 0x89
  | .regAccess => 0x8A
  | .memRange => 0x8B
  | .frameOwnership => 0x8C
  | .channelOwner => 0x8D
  | .busNotEnergized => 0x8E
  | .lifecycleOwner => 0x8F
  | .dmaQueueOverflow => 0x90
  | .dmaRange => 0x91

/-- `v` with bit `n` set to `b`. -/
def putBit (v : Half) (n : Nat) (b : Bool) : Half :=
  if b then v ||| (1#16 <<< n) else v &&& ~~~(1#16 <<< n)

/-- READY_STATUS (10 R37, 40 R67): each channel's bit says whether its completion queue holds an entry, and the other
bits are those of the draw `r`. -/
def readyValue (cfg : Config) (cmplQ : PerChan (List Half)) (r : Half) : Half :=
  Chan.list.foldl (fun v c => putBit v (cfg.readyBit.get c) (!(cmplQ.get c).isEmpty)) r

/-- Whether a write of `v` to TIME_CTRL is refused (45 R115): a bit other than the two latch bits, or both at once. -/
def timeCtrlRefuses (mIn mOut v : Half) : Bool :=
  decide ((v &&& ~~~(mIn ||| mOut)) ≠ 0) || decide ((v &&& (mIn ||| mOut)) = (mIn ||| mOut))

/-- edge(m) of 45 R115: whether a write of `v` over the stored `tc` makes the active edge of the bit `m`. -/
def latchEdgeActive (e : Edge) (tc v m : Half) : Bool :=
  match e with
  | .rising => decide (tc &&& m = 0) && decide (v &&& m ≠ 0)
  | .falling => decide (tc &&& m ≠ 0) && decide (v &&& m = 0)

end Sys2Proof.Machine

namespace Sys2Proof

/-- 1 << TC_IN_BIT (45 R115). -/
def Config.latchIn (cfg : Config) : Half := 1#16 <<< cfg.tcInBit

/-- 1 << TC_OUT_BIT (45 R115). -/
def Config.latchOut (cfg : Config) : Half := 1#16 <<< cfg.tcOutBit

end Sys2Proof
end

