-- ==== Sys2Proof/Machine/Ops.lean ====
section
/-! DEFINITION. The named operations every meaning is written over: draws (spec 00 R11), memory (10 R27, 20 R44, 40 R72),
the running thread, `finish` (10 R19), raising a fault (60 R126), the entry of a command and the check of each later
step (60 R121, R122), and the choice of the next agent (10 R14, 00 R12). -/

namespace Sys2Proof.Machine

open Sys2Proof

/-! ## Draws (00 R11) -/

/-- `draw u64`: the next scripted answer, or else a fresh free value. -/
def State.draw (s : State) : Word64 × State :=
  match s.answers with
  | a :: rest => (a, { s with answers := rest })
  | [] => (Config.freeWord s.drawn, { s with drawn := s.drawn + 1 })

/-- `draw u16`. -/
def State.draw16 (s : State) : Half × State := (s.draw.1.setWidth 16, s.draw.2)

/-- `draw u8`. -/
def State.draw8 (s : State) : Byte × State := (s.draw.1.setWidth 8, s.draw.2)

/-- `draw Bool`. -/
def State.drawBool (s : State) : Bool × State := (s.draw.1.getLsbD 0, s.draw.2)

/-- A draw in [0, n] (43 R107). -/
def State.drawUpTo (n : Nat) (s : State) : Nat × State := (s.draw.1.toNat % (n + 1), s.draw.2)

/-- `draw n bytes` (43 R107). -/
def State.drawBytes : Nat → State → List Byte × State
  | 0, s => ([], s)
  | n + 1, s =>
    let first := s.draw8
    let rest := State.drawBytes n first.2
    (first.1 :: rest.1, rest.2)

/-! ## Memory (10 R27) -/

/-- The byte at `a`, none if it was never written. -/
def Memory.read : Memory → Nat → Option Byte
  | [], _ => none
  | (b, x) :: rest, a => if b = a then some x else Memory.read rest a

/-- `m` with the byte at `a` set. It keeps the addresses strictly rising. -/
def Memory.write : Memory → Nat → Byte → Memory
  | [], a, v => [(a, v)]
  | (b, x) :: rest, a, v =>
    if a < b then (a, v) :: (b, x) :: rest
    else if a = b then (a, v) :: rest
    else (b, x) :: Memory.write rest a v

/-- `m` with `data` stored from `a` on. -/
def Memory.writeBytes : Memory → Nat → List Byte → Memory
  | m, _, [] => m
  | m, a, v :: rest => Memory.writeBytes (Memory.write m a v) (a + 1) rest

/-- Whether every listed address is greater than `a`, and the addresses rise. -/
def Memory.above : Nat → Memory → Bool
  | _, [] => true
  | a, (b, _) :: rest => decide (a < b) && Memory.above b rest

/-- The canonical form: addresses strictly rise. An unlisted address is unwritten, which is no byte value, so no entry
can equal it. -/
def Memory.wf : Memory → Bool
  | [] => true
  | (b, _) :: rest => Memory.above b rest

/-- mem[w]; the register window holds no memory (10 R27). -/
def Windows.get (m : Windows) : Window → Memory
  | .reg => []
  | .framer => m.framer
  | .deframer => m.deframer
  | .test => m.test

/-- The windows with mem[w] replaced. -/
def Windows.set (m : Windows) (w : Window) (x : Memory) : Windows :=
  match w with
  | .reg => m
  | .framer => { m with framer := x }
  | .deframer => { m with deframer := x }
  | .test => { m with test := x }

/-- Every window's memory is in canonical form. -/
def Windows.wf (m : Windows) : Bool := Memory.wf m.framer && Memory.wf m.deframer && Memory.wf m.test

/-- mem[w][a]. -/
def State.byteAt (s : State) (w : Window) (a : Nat) : Option Byte := Memory.read (s.mem.get w) a

/-- The state with mem[w][a] = some v. -/
def State.storeByte (s : State) (w : Window) (a : Nat) (v : Byte) : State :=
  { s with mem := s.mem.set w (Memory.write (s.mem.get w) a v) }

/-- The state with every byte of window `w` unwritten, as when it is mapped (41 R78, R82). -/
def State.clearWindow (s : State) (w : Window) : State := { s with mem := s.mem.set w [] }

/-- The bytes an MM2S step sends (43 R106): `n` bytes of window `w` from `a`, a draw for each unwritten one. -/
def State.fetchBytes (w : Window) : Nat → Nat → State → List Byte × State
  | _, 0, s => ([], s)
  | a, n + 1, s =>
    match s.byteAt w a with
    | some x =>
      let rest := State.fetchBytes w (a + 1) n s
      (x :: rest.1, rest.2)
    | none =>
      let first := s.draw8
      let rest := State.fetchBytes w (a + 1) n first.2
      (first.1 :: rest.1, rest.2)

/-- `mapped` with window `w` added. -/
def Mapped.add (m : Mapped) : Window → Mapped
  | .reg => { m with reg := true }
  | .framer => { m with framer := true }
  | .deframer => { m with deframer := true }
  | .test => { m with test := true }

/-- w ∈ `mapped`. -/
def Mapped.has (m : Mapped) : Window → Bool
  | .reg => m.reg
  | .framer => m.framer
  | .deframer => m.deframer
  | .test => m.test

/-- ∅. -/
def Mapped.empty : Mapped := ⟨false, false, false, false⟩

/-! ## The running thread -/

/-- The thread whose command is executed. `step` calls `exec` only when `turn` is a host thread. -/
def State.tid (s : State) : Nat :=
  match s.turn with
  | .host t => t
  | .dma _ => 0
  | .clock => 0
  | .loader => 0

/-- Thread `t`; one with an empty stream where T is smaller. -/
def State.thread (s : State) (t : Nat) : Thread := s.threads.getD t (Thread.powerOn [])

/-- The state with thread `t` replaced. -/
def State.setThread (s : State) (t : Nat) (th : Thread) : State := { s with threads := s.threads.set t th }

/-- `cur[t]` of the running thread. -/
def State.current (s : State) : Option Running := (s.thread s.tid).running

/-- The state with thread `t` at program point `p` of command `i`. -/
def State.putAt (s : State) (t : Nat) (i : Instr) (p : Point) : State :=
  s.setThread t { s.thread t with running := some ⟨i, p⟩ }

/-- The running thread goes on to program point `p` of command `i`. -/
def State.goto (s : State) (i : Instr) (p : Point) : State := s.putAt s.tid i p

/-! ## Completing and faulting -/

/-- `v` where it is given, `old` otherwise: a result register that a form of `finish` does not name stays. -/
def orKeep {α : Type} (v old : Option α) : Option α :=
  match v with
  | some x => some x
  | none => old

/-- A thread that completes its command (10 R19). -/
def Thread.finish (th : Thread) (st : Status) (v0 v1 : Option Word64) : Thread :=
  { th with cp := th.cp + 1, running := none, rstat := some st.code, rv0 := orKeep v0 th.rv0, rv1 := orKeep v1 th.rv1 }

/-- The state after `finish(st, v0, v1)` by the running thread (10 R19). -/
def State.finished (s : State) (st : Status) (v0 v1 : Option Word64) : State :=
  s.setThread s.tid ((s.thread s.tid).finish st v0 v1)

/-- `finish(st)`. -/
def State.finish (s : State) (st : Status) : Result := .next (s.finished st none none)

/-- `finish(st, v0)`. -/
def State.finish1 (s : State) (st : Status) (v0 : Word64) : Result := .next (s.finished st (some v0) none)

/-- `finish(st, v0, v1)`. -/
def State.finish2 (s : State) (st : Status) (v0 v1 : Word64) : Result := .next (s.finished st (some v0) (some v1))

/-- −1 in 64 bits (10 R19). -/
def minusOne : Word64 := 0xFFFFFFFFFFFFFFFF

/-- The command index of a fault record (60 R125): `cp[t]` for a host thread, none otherwise. -/
def State.faultIndex (s : State) : Option Nat :=
  match s.turn with
  | .host t => some (s.thread t).cp
  | .dma _ => none
  | .clock => none
  | .loader => none

/-- The state after `raise Fault(code, info)` by the agent whose turn it is (60 R126): the record is appended and
nothing else changes. From then on `step` has no step. -/
def State.raised (s : State) (code : FaultCode) (info : FaultInfo) : State :=
  { s with faults := s.faults ++ [⟨code, s.turn, s.faultIndex, info⟩] }

/-- TAKING A FAULT: the one operation by which every fault of 60 R125 is raised. There is no handler and no return from
a fault (60 R130). -/
def State.raise (s : State) (code : FaultCode) (info : FaultInfo) : Result := .next (s.raised code info)

/-! ## Commands that CLOSE cuts off (60 R122) -/

/-- The thread after CLOSE: a command in progress, other than OPEN and CLOSE, is cut off. -/
def Thread.cutOff (th : Thread) : Thread :=
  match th.running with
  | none => th
  | some r => if r.instr.isLifecycle then th else { th with running := some ⟨r.instr, .cut⟩ }

/-- Every command in progress, other than OPEN and CLOSE, is cut off: "a command of another thread that is part-way
through when CLOSE runs faults at its next step" (60 R122). -/
def State.cutOff (s : State) : State := { s with threads := s.threads.map Thread.cutOff }

/-! ## Bus steps -/

/-- What a bus step comes to: it is not enabled (40 R66), it raises a fault, or it is done with a value. -/
inductive Access (α : Type) where
  | hang
  | refuse (code : FaultCode) (info : FaultInfo)
  | done (v : α) (s : State)
  deriving Repr

/-- Goes on from a bus step. Where it is not enabled the thread has no step and stays where it is (40 R66); where it
faults, nothing of it takes effect (60 R126). -/
def State.onAccess {α : Type} (s : State) (a : Access α) (k : α → State → Result) : Result :=
  match a with
  | .hang => .next s
  | .refuse code info => s.raise code info
  | .done v s' => k v s'

/-! ## Starting a command, and the check of its later steps -/

/-- The name of a `dev` state. -/
def Dev.phase : Dev → DevPhase
  | .closed => .closed
  | .opening => .opening
  | .opened _ => .opened

/-- 60 R121 steps 3 and 4, for every command but OPEN and CLOSE. -/
def State.entryCheck (s : State) (i : Instr) : Option (FaultCode × FaultInfo) :=
  match s.dev with
  | .closed => some (.notOpen, .opcode i.opcode)
  | .opening => some (.notOpen, .opcode i.opcode)
  | .opened _ =>
    match i.ownedChan with
    | none => none
    | some c => if s.tid = s.cfg.owner.get c then none else some (.channelOwner, .owner c s.tid)

/-- 60 R121 step 2 for OPEN. -/
def State.entryCheckOpen (s : State) : Option (FaultCode × FaultInfo) :=
  if s.tid ≠ 0 then some (.lifecycleOwner, .thread s.tid)
  else match s.dev with
    | .closed => none
    | .opening => some (.alreadyOpen, .phase .opening)
    | .opened _ => some (.alreadyOpen, .phase .opened)

/-- 60 R121 step 2 for CLOSE. -/
def State.entryCheckClose (s : State) : Option (FaultCode × FaultInfo) :=
  if s.tid ≠ 0 then some (.lifecycleOwner, .thread s.tid)
  else match s.dev with
    | .opened _ => none
    | .closed => some (.notOpen, .opcode Instr.closeDev.opcode)
    | .opening => some (.notOpen, .opcode Instr.closeDev.opcode)

/-- The entry step (60 R121): the checks, then `cur[t]` is the command at its first program point. -/
def State.start (s : State) (i : Instr) (check : Option (FaultCode × FaultInfo)) : Result :=
  match check with
  | some (code, info) => s.raise code info
  | none => .next (s.goto i .start)

/-- One step of OPEN or CLOSE: the entry step when the thread has no command in progress, and `body` at the program
point of the command in progress otherwise. -/
def State.lifecycleStep (s : State) (i : Instr) (check : Option (FaultCode × FaultInfo)) (body : Point → Result) : Result :=
  match s.current with
  | none => s.start i check
  | some r => if r.instr = i then body r.point else .refused .notInProgress

/-- One step of any other command: the entry step when the thread has no command in progress; otherwise the check that
no CLOSE has run since the entry step and that `dev` is OPEN (60 R122; log entry 20), and then `body` with the tables, at
the program point. -/
def State.commandStep (s : State) (i : Instr) (body : PerChan Table → Point → Result) : Result :=
  match s.current with
  | none => s.start i (s.entryCheck i)
  | some r =>
    if r.instr = i then
      if r.point = .cut then s.raise .notOpen (.opcode i.opcode)
      else match s.dev with
      | .opened tables => body tables r.point
      | .closed => s.raise .notOpen (.opcode i.opcode)
      | .opening => s.raise .notOpen (.opcode i.opcode)
    else .refused .notInProgress

/-- A command with one program point after its entry step. -/
def State.simpleStep (s : State) (i : Instr) (body : PerChan Table → Result) : Result :=
  s.commandStep i fun tables p =>
    match p with
    | .start => body tables
    | .drain _ => .refused .notInProgress
    | .wait => .refused .notInProgress
    | .relStart => .refused .notInProgress
    | .relEnd => .refused .notInProgress
    | .clkGet _ => .refused .notInProgress
    | .clkSet _ => .refused .notInProgress
    | .opening _ => .refused .notInProgress
    | .cut => .refused .notInProgress

/-! ## Whose step comes next (10 R14, 00 R12) -/

/-- The program points of OPEN before a mapping step. -/
def OpenPoint.isInternal : OpenPoint → Bool
  | .map _ => true
  | .mapTest _ => true
  | .energise => false
  | .sentinel => false
  | .version _ => false
  | .loopback _ _ => false
  | .load => false
  | .recheckSentinel => false
  | .recheckVersion _ => false
  | .resetSet _ => false
  | .resetClear _ => false
  | .tag _ => false
  | .save _ => false
  | .regWrite _ _ _ => false
  | .regRead _ _ _ => false
  | .restore _ _ => false
  | .memWrite _ _ => false
  | .memRead _ _ => false

/-- Whether a command in progress is before an internal step. No other agent steps between a bus step or the entry step
and the internal steps after it (00 R12). -/
def Running.atInternal (r : Running) : Bool :=
  match r.point with
  | .start => !r.instr.startsOnBus
  | .drain (.mark _ _) => true
  | .drain (.ready _) => false
  | .drain (.status _) => false
  | .drain (.ack _) => false
  | .wait => false
  | .relStart => false
  | .relEnd => false
  | .clkGet _ => false
  | .clkSet _ => false
  | .opening p => p.isInternal
  | .cut => false

/-- Whether the agent that has just moved keeps the turn. -/
def State.keepsTurn (s : State) : Bool :=
  match s.turn with
  | .host t => (s.thread t).running.any Running.atInternal
  | .dma _ => false
  | .clock => false
  | .loader => false

/-- The choice of the next agent: the same thread while it is before an internal step, else the next of the scripted
schedule, else any agent. A state with a fault is left as it is. -/
def State.schedule (s : State) : State :=
  if s.faults ≠ [] then s
  else if s.keepsTurn then s
  else match s.sched with
    | a :: rest => { s with turn := a, sched := rest }
    | [] => { s with turn := Config.freeAgent s.drawn, drawn := s.drawn + 1 }

end Sys2Proof.Machine
end

