-- ==== Sys2Proof/Machine/Bus.lean ====
section
/-! DEFINITION. The bus-step primitives (spec 40 R66 to R72): RegRead, RegWrite with the write rule of each register
(40 R70, R71; 43 R104; 44 R109; 45 R114, R115), MemRead, MemWrite, and the check of host frame-memory accesses
(20 R44). -/

namespace Sys2Proof.Machine

open Sys2Proof

/-! ## RegRead (40 R67) -/

/-- What a read of register `r` returns once the bus is energised (10 R29 to R37, 40 R67). -/
def State.readRegister (s : State) (r : Reg) : Half × State :=
  match r with
  | .sentinel =>
    match s.image with
    | .loaded x _ => (x, s)
    | .unknown => s.draw16
  | .version =>
    match s.image with
    | .loaded _ x => (x, s)
    | .unknown => s.draw16
  | .reset => s.draw16
  | .loopback =>
    match s.loopback, s.cfg.fabricFaithful with
    | some x, true => (x, s)
    | some _, false => s.draw16
    | none, _ => s.draw16
  | .time k =>
    match s.snap.get k with
    | some x => (x, s)
    | none => s.draw16
  | .timeCtrl => s.draw16
  | .ctrl _ => s.draw16
  | .status c =>
    match s.cmplQ.get c with
    | x :: _ => (x, s)
    | [] => s.draw16
  | .ready => (readyValue s.cfg s.cmplQ s.draw16.1, s.draw16.2)

/-- `RegRead(off)` (40 R67): not enabled where the fabric does not respond (40 R66); regCheck; the energising read
returns a draw. -/
def State.regRead (s : State) (off : Nat) : Access Half :=
  if s.cfg.fabricResponds then
    match s.cfg.regCheck off with
    | .error code => .refuse code (.offset off)
    | .ok r =>
      if s.busEnergized then .done (s.readRegister r).1 (s.readRegister r).2
      else .done s.draw16.1 { s.draw16.2 with busEnergized := true }
  else .hang

/-! ## The write rules -/

/-- The queues of the DMA engines emptied, the time fields invalidated, the loopback cleared and the counter drawn:
the common part of RESET <- 1 (40 R70) and of Load (41 R80). -/
def State.clearFabric (s : State) : State :=
  { s.draw.2 with
    descQ := .all [], cmplQ := .all [], mm2sStart := .all none,
    counter := s.draw.1, snap := .all none, wr := .all none, loopback := none }

/-- WriteReset (40 R70). -/
def State.writeReset (s : State) (off : Nat) (v : Half) : Access Unit :=
  if v = 1 then .done () { s.clearFabric with resetAsserted := true }
  else if v = 0 then .done () { s with resetAsserted := false }
  else .refuse .regAccess (.access off v)

/-- A write of LOOPBACK (40 R71). -/
def State.writeLoopback (s : State) (v : Half) : State := { s with loopback := some v }

/-- WriteTimeField (45 R114). -/
def State.writeTimeField (s : State) (k : TimeField) (v : Half) : State :=
  { s with wr := s.wr.set k (some v), snap := s.snap.set k none }

/-- Latch-in (45 R115): the four fields of the counter in one step. -/
def State.latchIn (s : State) : State := { s with snap := tickFields s.counter, wr := .all none }

/-- Latch-out (45 R115): the written fields, or a draw unless all four are written. -/
def State.latchOut (s : State) : State :=
  match s.wr.f0, s.wr.f1, s.wr.f2, s.wr.f3 with
  | some a, some b, some c, some d => { s with counter := joinTicks a b c d }
  | _, _, _, _ => { s.draw.2 with counter := s.draw.1 }

/-- WriteTimeCtrl (45 R115). -/
def State.writeTimeCtrl (s : State) (off : Nat) (v : Half) : Access Unit :=
  if timeCtrlRefuses s.cfg.latchIn s.cfg.latchOut v then .refuse .regAccess (.access off v)
  else
    let s1 := if latchEdgeActive s.cfg.latchEdge s.tc v s.cfg.latchIn then s.latchIn else s
    let s2 := if latchEdgeActive s.cfg.latchEdge s.tc v s.cfg.latchOut then s1.latchOut else s1
    .done () { s2 with tc := v }

/-- Appends a descriptor to `descQ[c]`, unless the queue is full (43 R104). -/
def State.enqueue (s : State) (c : Chan) (d : Desc) : Access Unit :=
  if (s.descQ.get c).length = s.cfg.queueDepth.get c then .refuse .dmaQueueOverflow (.chan c)
  else .done () { s with descQ := s.descQ.set c (s.descQ.get c ++ [d]) }

/-- WriteCtrl (43 R104): on an MM2S channel writes pair up, start then end. -/
def State.writeCtrl (s : State) (c : Chan) (off : Nat) (v : Half) : Access Unit :=
  if s.resetAsserted then .refuse .regAccess (.access off v)
  else match c.dir with
    | .mm2s =>
      match s.mm2sStart.get c with
      | none => .done () { s with mm2sStart := s.mm2sStart.set c (some v) }
      | some first => { s with mm2sStart := s.mm2sStart.set c none }.enqueue c (.mm2s first v)
    | .s2mm => s.enqueue c (.s2mm v)

/-- WriteStatus (44 R109). -/
def State.writeStatus (s : State) (c : Chan) (off : Nat) (v : Half) : Access Unit :=
  if s.resetAsserted then .refuse .regAccess (.access off v)
  else if v ≠ 0 then .refuse .regAccess (.access off v)
  else .done () { s with cmplQ := s.cmplQ.set c (s.cmplQ.get c).tail }

/-- The effect of writing `v` to register `r` at offset `off` (40 R68). -/
def State.writeRegister (s : State) (r : Reg) (off : Nat) (v : Half) : Access Unit :=
  match r with
  | .sentinel => .refuse .regAccess (.access off v)
  | .version => .refuse .regAccess (.access off v)
  | .ready => .refuse .regAccess (.access off v)
  | .reset => s.writeReset off v
  | .loopback => .done () (s.writeLoopback v)
  | .time k => .done () (s.writeTimeField k v)
  | .timeCtrl => s.writeTimeCtrl off v
  | .ctrl c => s.writeCtrl c off v
  | .status c => s.writeStatus c off v

/-- `RegWrite(off, v)` (40 R68): not enabled where the fabric does not respond; regCheck; BUS_NOT_ENERGIZED; then the
register's own rule, with the value truncated to 16 bits. -/
def State.regWrite (s : State) (off : Nat) (v : Word64) : Access Unit :=
  if s.cfg.fabricResponds then
    match s.cfg.regCheck off with
    | .error code => .refuse code (.offset off)
    | .ok r =>
      if s.busEnergized then s.writeRegister r off (v.setWidth 16)
      else .refuse .busNotEnergized (.offset off)
  else .hang

/-! ## Memory bus steps (40 R72) -/

/-- `MemRead(w, a, 1)`: a byte never written, and a TEST byte of an unfaithful fabric, is a draw. -/
def State.memRead (s : State) (w : Window) (a : Nat) : Access Byte :=
  if s.cfg.fabricResponds then
    if w = .test ∧ s.cfg.fabricFaithful = false then .done s.draw8.1 s.draw8.2
    else match s.byteAt w a with
      | some x => .done x s
      | none => .done s.draw8.1 s.draw8.2
  else .hang

/-- `MemWrite(w, a, 1, v)`. -/
def State.memWrite (s : State) (w : Window) (a : Nat) (v : Byte) : Access Unit :=
  if s.cfg.fabricResponds then .done () (s.storeByte w a v) else .hang

/-- memCheck(w, a, t) (20 R44): the fault that a host access of byte `a` of window `w` raises, if any. -/
def State.memCheck (s : State) (tables : PerChan Table) (w : Window) (a : Nat) : Option (FaultCode × FaultInfo) :=
  if w = .reg ∨ w = .test ∨ s.mapped.has w = false then some (.memRange, .memory w a)
  else if s.cfg.winBytes w ≤ a then some (.memRange, .memory w a)
  else match s.cfg.regionAt w a with
    | none => none
    | some c =>
      let h := (a - s.cfg.base.get c) / s.cfg.frameBytes.get c
      if (tables.get c).slots[h]? ≠ some .inFlight then some (.frameOwnership, .frame c h a)
      else if s.tid ≠ s.cfg.owner.get c then some (.channelOwner, .owner c s.tid)
      else none

/-- A host frame-memory bus step: the check and then the access (20 R44, 40 R75, R76). -/
def State.checked {α : Type} (s : State) (tables : PerChan Table) (w : Window) (a : Nat) (k : Access α) : Access α :=
  if s.cfg.fabricResponds then
    match s.memCheck tables w a with
    | some (code, info) => .refuse code info
    | none => k
  else .hang

end Sys2Proof.Machine
end

