-- ==== Sys2Proof/Machine/Agents.lean ====
section
/-! DEFINITION. The agents other than the host threads (spec 10 R14): the DMA engines (43 R105 to R107), the CLOCK
(45 R113) and the LOADER (41 R80). An agent that is scheduled while it has no step leaves the state as it is. -/

namespace Sys2Proof.Machine

open Sys2Proof

/-- One step of an MM2S descriptor (43 R106). -/
def State.dmaSend (s : State) (c : Chan) (first last : Half) (rest : List Desc) : Result :=
  if last < first ∨ s.cfg.winBytes c.win < last.toNat then
    s.raise .dmaRange (.range c first.toNat last.toNat)
  else
    let data := State.fetchBytes c.win first.toNat (last.toNat - first.toNat) s
    let count := data.2.draw16
    .next { count.2 with
      descQ := s.descQ.set c rest
      streamOut := s.streamOut.set c (s.streamOut.get c ++ [data.1])
      cmplQ := s.cmplQ.set c (s.cmplQ.get c ++ [count.1]) }

/-- One step of an S2MM descriptor (43 R107). -/
def State.dmaReceive (s : State) (c : Chan) (first : Half) (rest : List Desc) : Result :=
  let n := s.drawUpTo (s.cfg.frameBytes.get c)
  if s.cfg.winBytes c.win < first.toNat + n.1 then s.raise .dmaRange (.range c first.toNat n.1)
  else
    let data := State.drawBytes n.1 n.2
    .next { data.2 with
      mem := s.mem.set c.win (Memory.writeBytes (s.mem.get c.win) first.toNat data.1)
      descQ := s.descQ.set c rest
      streamIn := s.streamIn.set c (s.streamIn.get c ++ [data.1])
      cmplQ := s.cmplQ.set c (s.cmplQ.get c ++ [BitVec.ofNat 16 n.1]) }

/-- One step of DMA[c] (43 R105): enabled while the fabric responds, reset is not asserted and a descriptor waits. It
performs the oldest. Every descriptor of an MM2S channel has the MM2S form and every one of an S2MM channel the S2MM
form. -/
def State.dmaStep (s : State) (c : Chan) : Result :=
  if s.cfg.fabricResponds = false ∨ s.resetAsserted = true then .next s
  else match s.descQ.get c with
    | [] => .next s
    | .mm2s first last :: rest => s.dmaSend c first last rest
    | .s2mm first :: rest => s.dmaReceive c first rest

/-- One tick of the CLOCK (45 R113). -/
def State.tick (s : State) : State := { s with counter := s.counter + 1 }

/-- One step of the CLOCK. -/
def State.clockStep (s : State) : Result := .next s.tick

/-- Load (41 R80). -/
def State.load (s : State) : State :=
  { s.clearFabric with
    image := .loaded s.cfg.imgSentinel s.cfg.imgVersion
    loadCount := s.loadCount + 1
    resetAsserted := false
    tc := 0 }

/-- One step of the LOADER (41 R80): it acts only when thread 0, running OPEN, waits for it (10 R14). -/
def State.loaderStep (s : State) : Result :=
  match (s.thread 0).running with
  | some ⟨.openDev hash seed, .opening .load⟩ =>
    .next (s.load.putAt 0 (.openDev hash seed) (.opening .recheckSentinel))
  | _ => .next s

end Sys2Proof.Machine
end

