-- ==== Sys2Proof/Machine/Ring.lean ====
section
/-! DEFINITION. The ring table (spec 42): ConstructTables (41 R83), the counts P(c) and firstInFlight(c) (42 R87), and
the three functions that move a slot through free, in-flight and pending (42 R90, R91, R92). -/

namespace Sys2Proof.Machine

open Sys2Proof

/-- A table as ConstructTables makes it (41 R83). -/
def Table.fresh (n frame : Nat) : Table :=
  { head := 0, tail := 0, avail := n, slots := List.replicate n .free, lens := List.replicate n frame }

end Sys2Proof.Machine

namespace Sys2Proof

open Sys2Proof.Machine

/-- ConstructTables (41 R83). -/
def Config.freshTables (cfg : Config) : PerChan Table :=
  ⟨Table.fresh cfg.capacity.c0 cfg.frameBytes.c0, Table.fresh cfg.capacity.c1 cfg.frameBytes.c1,
    Table.fresh cfg.capacity.c2 cfg.frameBytes.c2, Table.fresh cfg.capacity.c3 cfg.frameBytes.c3⟩

end Sys2Proof

namespace Sys2Proof.Machine

open Sys2Proof

/-- P(c), the number of PENDING slots (42 R87). -/
def Table.pendingCount (t : Table) : Nat := t.slots.count .pending

/-- firstInFlight(c) (42 R87), for a table of capacity `n`. -/
def Table.firstInFlight (t : Table) (n : Nat) : Nat := (t.tail + t.pendingCount) % n

/-- AcquireHead (42 R90): the handle, its configured length and the new table, or none where the source's result is
negative. -/
def Table.acquireHead (t : Table) (n : Nat) : Option (Nat × Nat × Table) :=
  if t.avail = 0 then none
  else some (t.head, t.lens.getD t.head 0,
    { t with slots := t.slots.set t.head .inFlight, head := (t.head + 1) % n, avail := t.avail - 1 })

/-- The table with slot `h` PENDING. -/
def Table.setPending (t : Table) (h : Nat) : Table := { t with slots := t.slots.set h .pending }

/-- The fault that a release of handle `h` raises (42 R91), if any: h ≥ N[c], not IN_FLIGHT, not the oldest. -/
def Table.releaseFault (t : Table) (c : Chan) (n h : Nat) : Option (FaultCode × FaultInfo) :=
  if n ≤ h then some (.invalidHandle, .handle c h)
  else if t.slots[h]? ≠ some .inFlight then some (.invalidHandle, .handle c h)
  else if h ≠ t.firstInFlight n then some (.releaseOrder, .order c h (t.firstInFlight n))
  else none

/-- The fault that a completion mark of `bytes` raises (42 R92), if any. -/
def Table.markFault (t : Table) (c : Chan) (n frame bytes : Nat) : Option (FaultCode × FaultInfo) :=
  if t.avail = n then some (.tableOverflow, .chan c)
  else match t.slots[t.tail]? with
    | some .pending => if frame < bytes then some (.lengthRange, .length c bytes) else none
    | some .free => some (.completionOrder, .completion c t.tail .free)
    | some .inFlight => some (.completionOrder, .completion c t.tail .inFlight)
    | none => some (.completionOrder, .completion c t.tail .free)

/-- The table after MarkTail(c, bytes) without a fault (42 R92). -/
def Table.markTail (t : Table) (n bytes : Nat) : Table :=
  { t with lens := t.lens.set t.tail bytes, slots := t.slots.set t.tail .free, tail := (t.tail + 1) % n, avail := t.avail + 1 }

/-- The state with `Tbl[c]` replaced. -/
def State.setTable (s : State) (tables : PerChan Table) (c : Chan) (t : Table) : State :=
  { s with dev := .opened (tables.set c t) }

/-- Goes on with the state after `MarkReleased(c, h)` (42 R91), or raises its fault. -/
def State.markReleased (s : State) (tables : PerChan Table) (c : Chan) (h : Nat) (k : State → Result) : Result :=
  match (tables.get c).releaseFault c (s.cfg.capacity.get c) h with
  | some (code, info) => s.raise code info
  | none => k (s.setTable tables c ((tables.get c).setPending h))

/-- Goes on with the new table and the state after `MarkTail(c, bytes)` (42 R92), or raises its fault. -/
def State.markTail (s : State) (tables : PerChan Table) (c : Chan) (bytes : Nat) (k : Table → State → Result) : Result :=
  match (tables.get c).markFault c (s.cfg.capacity.get c) (s.cfg.frameBytes.get c) bytes with
  | some (code, info) => s.raise code info
  | none =>
    let t := (tables.get c).markTail (s.cfg.capacity.get c) bytes
    k t (s.setTable tables c t)

/-- AcquireHead and the `finish` that reports it; `st` is the status where no frame is available
(42 R94, 43 R100, R101). -/
def State.acquireAndFinish (s : State) (tables : PerChan Table) (c : Chan) (st : Status) : Result :=
  match (tables.get c).acquireHead (s.cfg.capacity.get c) with
  | none => s.finish2 st minusOne 0
  | some (h, len, t) => (s.setTable tables c t).finish2 .ok (BitVec.ofNat 64 h) (BitVec.ofNat 64 len)

end Sys2Proof.Machine
end

