-- ==== Sys2Proof/Machine/Poller.lean ====
section
/-! DEFINITION. The completion-polling arbiter (spec 44): DrainChannel, one bus or internal step at a time, and the
command POLL_DRAIN. -/

namespace Sys2Proof.Machine

open Sys2Proof

/-- One step of DrainChannel(c) for command `i` (44 R110). `done n s1` is what follows its return of `n`, in the same
step as the READY read that ends it (00 R12). -/
def State.drainStep (s : State) (i : Instr) (c : Chan) (tables : PerChan Table) (d : DrainPoint)
    (done : Nat → State → Result) : Result :=
  match d with
  | .ready n =>
    s.onAccess (s.regRead (s.cfg.off .ready)) fun r s1 =>
      if r.getLsbD (s.cfg.readyBit.get c) then
        match c.dir with
        | .mm2s => .next (s1.goto i (.drain (.mark n (s.cfg.frameBytes.get c))))
        | .s2mm => .next (s1.goto i (.drain (.status n)))
      else done n s1
  | .status n =>
    s.onAccess (s.regRead (s.cfg.off (.status c))) fun x s1 => .next (s1.goto i (.drain (.mark n x.toNat)))
  | .mark n amount => s.markTail tables c amount fun _ s1 => .next (s1.goto i (.drain (.ack n)))
  | .ack n =>
    s.onAccess (s.regWrite (s.cfg.off (.status c)) 0) fun _ s1 => .next (s1.goto i (.drain (.ready (n + 1))))

/-- The steps of a command whose only loop is one drain of channel `c`: POLL_DRAIN and CH_TRY_ACQUIRE. -/
def State.drainCommand (s : State) (i : Instr) (c : Chan) (done : PerChan Table → Nat → State → Result) : Result :=
  s.commandStep i fun tables p =>
    match p with
    | .start => s.drainStep i c tables (.ready 0) (done tables)
    | .drain d => s.drainStep i c tables d (done tables)
    | .wait => .refused .notInProgress
    | .relStart => .refused .notInProgress
    | .relEnd => .refused .notInProgress
    | .clkGet _ => .refused .notInProgress
    | .clkSet _ => .refused .notInProgress
    | .opening _ => .refused .notInProgress
    | .cut => .refused .notInProgress

/-- POLL_DRAIN (44 R112). -/
def execPollDrain (c : Chan) (s : State) : Result :=
  s.drainCommand (.pollDrain c) c fun tables n s1 =>
    s1.finish2 .ok (BitVec.ofNat 64 n) (BitVec.ofNat 64 (tables.get c).avail)

end Sys2Proof.Machine
end

