-- ==== Sys2Proof/Machine/Channel.lean ====
section
/-! DEFINITION. The channel controller (spec 43 R100 to R103). -/

namespace Sys2Proof.Machine

open Sys2Proof

/-- What CH_ACQUIRE does after a drain (43 R100): acquire if a frame is available; else the deadline test, which is
true at once for a timeout of 0 and a draw otherwise; else `wait`. -/
def State.acquireOrWait (s : State) (i : Instr) (c : Chan) (timeoutUs : Word64) (tables : PerChan Table) : Result :=
  if 0 < (tables.get c).avail then s.acquireAndFinish tables c .timeout
  else if timeoutUs = 0 then s.finish2 .timeout minusOne 0
  else if s.drawBool.1 then s.drawBool.2.finish2 .timeout minusOne 0
  else .next (s.drawBool.2.goto i .wait)

/-- CH_ACQUIRE (43 R100). -/
def execChAcquire (c : Chan) (timeoutUs : Word64) (s : State) : Result :=
  let i := Instr.chAcquire c timeoutUs
  s.commandStep i fun tables p =>
    match p with
    | .start => s.drainStep i c tables (.ready 0) fun _ s1 => s1.acquireOrWait i c timeoutUs tables
    | .drain d => s.drainStep i c tables d fun _ s1 => s1.acquireOrWait i c timeoutUs tables
    | .wait => .next (s.goto i (.drain (.ready 0)))
    | .relStart => .refused .notInProgress
    | .relEnd => .refused .notInProgress
    | .clkGet _ => .refused .notInProgress
    | .clkSet _ => .refused .notInProgress
    | .opening _ => .refused .notInProgress
    | .cut => .refused .notInProgress

/-- CH_TRY_ACQUIRE (43 R101). -/
def execChTryAcquire (c : Chan) (s : State) : Result :=
  s.drainCommand (.chTryAcquire c) c fun tables _ s1 => s1.acquireAndFinish tables c .noneAvailable

/-- The fault of CH_RELEASE's checks (43 R102), if any: those of the handle and its order first, then an MM2S length
above F[c]. -/
def State.releaseFault (s : State) (tables : PerChan Table) (c : Chan) (h : Half) (length : Word64) :
    Option (FaultCode × FaultInfo) :=
  match (tables.get c).releaseFault c (s.cfg.capacity.get c) h.toNat with
  | some e => some e
  | none =>
    if c.dir = .mm2s ∧ s.cfg.frameBytes.get c < length.toNat then some (.lengthRange, .length c length.toNat)
    else none

/-- The first value that CH_RELEASE programs (43 R102): the frame's offset. -/
def State.releaseFirst (s : State) (c : Chan) (h : Half) : Word64 := BitVec.ofNat 64 (s.cfg.frameOff c h.toNat)

/-- The second value, MM2S only (43 R102): the exclusive end offset. -/
def State.releaseLast (s : State) (c : Chan) (h : Half) (length : Word64) : Word64 :=
  BitVec.ofNat 64 (s.cfg.frameOff c h.toNat + length.toNat)

/-- CH_RELEASE (43 R102): the checks and MarkReleased, an internal step; then one CTRLc write, and on an MM2S channel
a second. -/
def execChRelease (c : Chan) (h : Half) (length : Word64) (s : State) : Result :=
  let i := Instr.chRelease c h length
  s.commandStep i fun tables p =>
    match p with
    | .start =>
      match s.releaseFault tables c h length with
      | some (code, info) => s.raise code info
      | none => .next ((s.setTable tables c ((tables.get c).setPending h.toNat)).goto i .relStart)
    | .relStart =>
      s.onAccess (s.regWrite (s.cfg.off (.ctrl c)) (s.releaseFirst c h)) fun _ s1 =>
        match c.dir with
        | .mm2s => .next (s1.goto i .relEnd)
        | .s2mm => s1.finish .ok
    | .relEnd =>
      s.onAccess (s.regWrite (s.cfg.off (.ctrl c)) (s.releaseLast c h length)) fun _ s1 => s1.finish .ok
    | .drain _ => .refused .notInProgress
    | .wait => .refused .notInProgress
    | .clkGet _ => .refused .notInProgress
    | .clkSet _ => .refused .notInProgress
    | .opening _ => .refused .notInProgress
    | .cut => .refused .notInProgress

/-- CH_BUFFER (43 R103). -/
def execChBuffer (c : Chan) (h : Half) (s : State) : Result :=
  s.simpleStep (.chBuffer c h) fun tables =>
    if s.cfg.capacity.get c ≤ h.toNat ∨ (tables.get c).slots[h.toNat]? ≠ some .inFlight then
      s.raise .invalidHandle (.handle c h.toNat)
    else s.finish2 .ok c.win.id (BitVec.ofNat 64 (s.cfg.frameOff c h.toNat))

end Sys2Proof.Machine
end

