-- ==== Sys2Proof/Machine/Clock.lean ====
section
/-! DEFINITION. CLK_GET and CLK_SET (spec 45 R117, R118). -/

namespace Sys2Proof.Machine

open Sys2Proof

/-- CLK_GET (45 R117): pulse the latch-in bit, read the four fields, convert. -/
def execClkGet (s : State) : Result :=
  s.commandStep .clkGet fun _ p =>
    match p with
    | .start =>
      s.onAccess (s.regWrite (s.cfg.off .timeCtrl) (s.cfg.latchIn.setWidth 64)) fun _ s1 =>
        .next (s1.goto .clkGet (.clkGet .latchClear))
    | .clkGet .latchClear =>
      s.onAccess (s.regWrite (s.cfg.off .timeCtrl) 0) fun _ s1 => .next (s1.goto .clkGet (.clkGet .field0))
    | .clkGet .field0 =>
      s.onAccess (s.regRead (s.cfg.off (.time .t0))) fun f0 s1 => .next (s1.goto .clkGet (.clkGet (.field1 f0)))
    | .clkGet (.field1 f0) =>
      s.onAccess (s.regRead (s.cfg.off (.time .t1))) fun f1 s1 => .next (s1.goto .clkGet (.clkGet (.field2 f0 f1)))
    | .clkGet (.field2 f0 f1) =>
      s.onAccess (s.regRead (s.cfg.off (.time .t2))) fun f2 s1 =>
        .next (s1.goto .clkGet (.clkGet (.field3 f0 f1 f2)))
    | .clkGet (.field3 f0 f1 f2) =>
      s.onAccess (s.regRead (s.cfg.off (.time .t3))) fun f3 s1 =>
        let ticks := joinTicks f0 f1 f2 f3
        s1.finish2 .ok (s.cfg.ticksToNs ticks) ticks
    | .drain _ => .refused .notInProgress
    | .wait => .refused .notInProgress
    | .relStart => .refused .notInProgress
    | .relEnd => .refused .notInProgress
    | .clkSet _ => .refused .notInProgress
    | .opening _ => .refused .notInProgress
    | .cut => .refused .notInProgress

/-- One write of CLK_SET: time field `k` of the ticks, then program point `p`. -/
def State.setClockField (s : State) (ns : Word64) (k : TimeField) (p : ClkSetPoint) : Result :=
  s.onAccess (s.regWrite (s.cfg.off (.time k)) ((tickField (s.cfg.nsToTicks ns) k).setWidth 64)) fun _ s1 =>
    .next (s1.goto (.clkSet ns) (.clkSet p))

/-- CLK_SET (45 R118): write the four fields, pulse the latch-out bit. -/
def execClkSet (ns : Word64) (s : State) : Result :=
  s.commandStep (.clkSet ns) fun _ p =>
    match p with
    | .start => s.setClockField ns .t0 .field1
    | .clkSet .field1 => s.setClockField ns .t1 .field2
    | .clkSet .field2 => s.setClockField ns .t2 .field3
    | .clkSet .field3 => s.setClockField ns .t3 .latchOut
    | .clkSet .latchOut =>
      s.onAccess (s.regWrite (s.cfg.off .timeCtrl) (s.cfg.latchOut.setWidth 64)) fun _ s1 =>
        .next (s1.goto (.clkSet ns) (.clkSet .latchClear))
    | .clkSet .latchClear =>
      s.onAccess (s.regWrite (s.cfg.off .timeCtrl) 0) fun _ s1 => s1.finish1 .ok (s.cfg.nsToTicks ns)
    | .drain _ => .refused .notInProgress
    | .wait => .refused .notInProgress
    | .relStart => .refused .notInProgress
    | .relEnd => .refused .notInProgress
    | .clkGet _ => .refused .notInProgress
    | .opening _ => .refused .notInProgress
    | .cut => .refused .notInProgress

end Sys2Proof.Machine
end

