-- ==== Sys2Proof/Machine/Lifecycle.lean ====
section
/-! DEFINITION. OPEN and CLOSE (spec 41): the mappings, the bring-up, the two self-tests, the tables, and the unwind of
a failed open. -/

namespace Sys2Proof.Machine

open Sys2Proof

/-- Unwind (41 R77); CLOSE does the same (41 R85). -/
def State.unwind (s : State) : State := { s with mapped := .empty, busEnergized := false, dev := .closed }

/-- A fatal end of OPEN: Unwind, then `finish(st, v0, v1)` (41 R77, 60 R123). -/
def State.failOpen (s : State) (st : Status) (v0 v1 : Word64) : Result := s.unwind.finish2 st v0 v1

/-- The step number that DEVICE_OPEN_FAILURE reports (41 R78, 60 R123). -/
def MapStep.number : MapStep → Word64
  | .node => 1
  | .reg => 2
  | .framer => 3
  | .deframer => 4

/-- The effect of a mapping step that succeeds (41 R78). -/
def State.mapDone (s : State) (m : MapStep) : State :=
  match m with
  | .node => s
  | .reg => { s with mapped := s.mapped.add .reg }
  | .framer => { s with mapped := s.mapped.add .framer }.clearWindow .framer
  | .deframer => { s with mapped := s.mapped.add .deframer, busEnergized := false }.clearWindow .deframer

/-- The program point after a mapping step. -/
def MapStep.after : MapStep → OpenPoint
  | .node => .map .reg
  | .reg => .map .framer
  | .framer => .map .deframer
  | .deframer => .energise

/-- One mapping step (41 R78): its two draws, `ok` and then `err`. -/
def State.mapStep (s : State) (i : Instr) (m : MapStep) : Result :=
  let ok := s.drawBool
  let err := ok.2.draw
  if ok.1 then .next ((err.2.mapDone m).goto i (.opening m.after))
  else err.2.failOpen .deviceOpenFailure m.number err.1

/-- Where OPEN goes after reading the loopback (41 R79 step 3): to the load, or to the reset pulse. -/
def State.afterChecks (s : State) (hash : Word64) (a v l : Half) : OpenPoint :=
  if a ≠ s.cfg.sentinelExpected ∨ v ≠ s.cfg.versionExpected ∨ l ≠ hash.setWidth 16 then .load
  else .resetSet false

/-- What follows the re-check after a load (41 R79 step 4): the sentinel is checked first. -/
def State.afterRecheck (s : State) (i : Instr) (a v : Half) : Result :=
  if a ≠ s.cfg.sentinelExpected then
    s.failOpen .bringupSentinel (a.setWidth 64) (s.cfg.sentinelExpected.setWidth 64)
  else if v ≠ s.cfg.versionExpected then
    s.failOpen .bringupVersion (v.setWidth 64) (s.cfg.versionExpected.setWidth 64)
  else .next (s.goto i (.opening (.resetSet true)))

/-- The register self-test at iteration `k` (41 R81): the next write, or the restore. -/
def State.selfTestRegAt (s : State) (loaded : Bool) (saved : Half) (k : Nat) : OpenPoint :=
  if k < s.cfg.selftestIters then .regWrite loaded saved k else .restore loaded saved

/-- The end of a successful OPEN: TEST unmapped, the tables constructed, `dev` OPEN (41 R82, R83, R84). -/
def State.openDone (s : State) (loaded : Bool) : Result :=
  { s with mapped := { s.mapped with test := false }, dev := .opened (Config.freshTables s.cfg) }.finish2 .ok
    (if loaded then 1 else 0) 0

/-- The memory self-test where index `k` of its write pass comes next (41 R82). -/
def State.selfTestMemWriteAt (s : State) (i : Instr) (loaded : Bool) (k : Nat) : Result :=
  if k < s.cfg.testBytes then .next (s.goto i (.opening (.memWrite loaded k)))
  else if 0 < s.cfg.testBytes then .next (s.goto i (.opening (.memRead loaded 0)))
  else s.openDone loaded

/-- The memory self-test where index `k` of its read pass comes next (41 R82). -/
def State.selfTestMemReadAt (s : State) (i : Instr) (loaded : Bool) (k : Nat) : Result :=
  if k < s.cfg.testBytes then .next (s.goto i (.opening (.memRead loaded k)))
  else s.openDone loaded

/-- The TEST mapping step (41 R82). -/
def State.mapTestStep (s : State) (i : Instr) (loaded : Bool) : Result :=
  let ok := s.drawBool
  let err := ok.2.draw
  if ok.1 then ({ err.2 with mapped := err.2.mapped.add .test }.clearWindow .test).selfTestMemWriteAt i loaded 0
  else err.2.failOpen .deviceOpenFailure 5 err.1

/-- One step of OPEN after its first (41 R78 to R84). -/
def State.openStep (s : State) (hash : Word64) (seed : Half) (p : OpenPoint) : Result :=
  let i := Instr.openDev hash seed
  match p with
  | .map m => s.mapStep i m
  | .energise =>
    s.onAccess (s.regRead (s.cfg.off .sentinel)) fun _ s1 => .next (s1.goto i (.opening .sentinel))
  | .sentinel =>
    s.onAccess (s.regRead (s.cfg.off .sentinel)) fun x s1 => .next (s1.goto i (.opening (.version x)))
  | .version a =>
    s.onAccess (s.regRead (s.cfg.off .version)) fun v s1 => .next (s1.goto i (.opening (.loopback a v)))
  | .loopback a v =>
    s.onAccess (s.regRead (s.cfg.off .loopback)) fun l s1 => .next (s1.goto i (.opening (s.afterChecks hash a v l)))
  | .load => .next s
  | .recheckSentinel =>
    s.onAccess (s.regRead (s.cfg.off .sentinel)) fun x s1 => .next (s1.goto i (.opening (.recheckVersion x)))
  | .recheckVersion a =>
    s.onAccess (s.regRead (s.cfg.off .version)) fun v s1 => s1.afterRecheck i a v
  | .resetSet loaded =>
    s.onAccess (s.regWrite (s.cfg.off .reset) 1) fun _ s1 => .next (s1.goto i (.opening (.resetClear loaded)))
  | .resetClear loaded =>
    s.onAccess (s.regWrite (s.cfg.off .reset) 0) fun _ s1 => .next (s1.goto i (.opening (.tag loaded)))
  | .tag loaded =>
    s.onAccess (s.regWrite (s.cfg.off .loopback) ((hash.setWidth 16).setWidth 64)) fun _ s1 =>
      .next (s1.goto i (.opening (.save loaded)))
  | .save loaded =>
    s.onAccess (s.regRead (s.cfg.off .loopback)) fun x s1 =>
      .next (s1.goto i (.opening (s.selfTestRegAt loaded x 0)))
  | .regWrite loaded saved k =>
    s.onAccess (s.regWrite (s.cfg.off .loopback) ((Config.prng16 seed k).setWidth 64)) fun _ s1 =>
      .next (s1.goto i (.opening (.regRead loaded saved k)))
  | .regRead loaded saved k =>
    s.onAccess (s.regRead (s.cfg.off .loopback)) fun r s1 =>
      if r ≠ Config.prng16 seed k then
        s1.failOpen .selftestReg (BitVec.ofNat 64 k)
          (((Config.prng16 seed k).setWidth 64 <<< 16) ||| r.setWidth 64)
      else .next (s1.goto i (.opening (s.selfTestRegAt loaded saved (k + 1))))
  | .restore loaded saved =>
    s.onAccess (s.regWrite (s.cfg.off .loopback) (saved.setWidth 64)) fun _ s1 =>
      .next (s1.goto i (.opening (.mapTest loaded)))
  | .mapTest loaded => s.mapTestStep i loaded
  | .memWrite loaded k =>
    s.onAccess (s.memWrite .test k (Config.prng8 seed k)) fun _ s1 => s1.selfTestMemWriteAt i loaded (k + 1)
  | .memRead loaded k =>
    s.onAccess (s.memRead .test k) fun r s1 =>
      if r ≠ Config.prng8 seed k then
        s1.failOpen .selftestMem (BitVec.ofNat 64 k) (((Config.prng8 seed k).setWidth 64 <<< 8) ||| r.setWidth 64)
      else s1.selfTestMemReadAt i loaded (k + 1)

/-- OPEN (41 R84). Its first step after the entry step is `dev <- OPENING`. -/
def execOpenDev (hash : Word64) (seed : Half) (s : State) : Result :=
  let i := Instr.openDev hash seed
  s.lifecycleStep i s.entryCheckOpen fun p =>
    match p with
    | .start => .next ({ s with dev := .opening }.goto i (.opening (.map .node)))
    | .opening q => s.openStep hash seed q
    | .drain _ => .refused .notInProgress
    | .wait => .refused .notInProgress
    | .relStart => .refused .notInProgress
    | .relEnd => .refused .notInProgress
    | .clkGet _ => .refused .notInProgress
    | .clkSet _ => .refused .notInProgress
    | .cut => .refused .notInProgress

/-- CLOSE (41 R85). It makes no bus step and leaves the fabric as it is; the other threads' commands in progress are cut
off (60 R122). -/
def execCloseDev (s : State) : Result :=
  s.lifecycleStep .closeDev s.entryCheckClose fun p =>
    match p with
    | .start => s.cutOff.unwind.finish .ok
    | .opening _ => .refused .notInProgress
    | .drain _ => .refused .notInProgress
    | .wait => .refused .notInProgress
    | .relStart => .refused .notInProgress
    | .relEnd => .refused .notInProgress
    | .clkGet _ => .refused .notInProgress
    | .clkSet _ => .refused .notInProgress
    | .cut => .refused .notInProgress

end Sys2Proof.Machine
end

