-- ==== Sys2Proof/Machine/RegAccess.lean ====
section
/-! DEFINITION. REG_RD, REG_WR, MEM_RD8 and MEM_WR8 (spec 40 R73 to R76), each one bus step after its entry step. -/

namespace Sys2Proof.Machine

open Sys2Proof

/-- REG_RD (40 R73). -/
def execRegRd (off : Half) (s : State) : Result :=
  s.simpleStep (.regRd off) fun _ =>
    s.onAccess (s.regRead off.toNat) fun x s1 => s1.finish1 .ok (x.setWidth 64)

/-- REG_WR (40 R74). -/
def execRegWr (off : Half) (value : Word64) (s : State) : Result :=
  s.simpleStep (.regWr off value) fun _ =>
    s.onAccess (s.regWrite off.toNat value) fun _ s1 => s1.finish .ok

/-- MEM_RD8 (40 R75). -/
def execMemRd8 (w : Window) (a : Word64) (s : State) : Result :=
  s.simpleStep (.memRd8 w a) fun tables =>
    s.onAccess (s.checked tables w a.toNat (s.memRead w a.toNat)) fun x s1 => s1.finish1 .ok (x.setWidth 64)

/-- MEM_WR8 (40 R76). -/
def execMemWr8 (w : Window) (a : Word64) (byte : Byte) (s : State) : Result :=
  s.simpleStep (.memWr8 w a byte) fun tables =>
    s.onAccess (s.checked tables w a.toNat (s.memWrite w a.toNat byte)) fun _ s1 => s1.finish .ok

end Sys2Proof.Machine
end

