-- ==== Sys2Proof/Machine/SgTable.lean ====
section
/-! DEFINITION. The seven table commands (spec 42 R93 to R99). They make no bus step. -/

namespace Sys2Proof.Machine

open Sys2Proof

/-- TBL_NUM_AVAIL (42 R93). -/
def execTblNumAvail (c : Chan) (s : State) : Result :=
  s.simpleStep (.tblNumAvail c) fun tables => s.finish1 .ok (BitVec.ofNat 64 (tables.get c).avail)

/-- TBL_ACQ_HEAD (42 R94). -/
def execTblAcqHead (c : Chan) (s : State) : Result :=
  s.simpleStep (.tblAcqHead c) fun tables => s.acquireAndFinish tables c .noneAvailable

/-- TBL_MARK_REL (42 R95). -/
def execTblMarkRel (c : Chan) (h : Half) (s : State) : Result :=
  s.simpleStep (.tblMarkRel c h) fun tables => s.markReleased tables c h.toNat fun s1 => s1.finish .ok

/-- TBL_MARK_TAIL (42 R96). -/
def execTblMarkTail (c : Chan) (bytes : Word64) (s : State) : Result :=
  s.simpleStep (.tblMarkTail c bytes) fun tables =>
    s.markTail tables c bytes.toNat fun t s1 => s1.finish1 .ok (BitVec.ofNat 64 t.avail)

/-- TBL_OFFSET (42 R97). -/
def execTblOffset (c : Chan) (h : Half) (s : State) : Result :=
  s.simpleStep (.tblOffset c h) fun _ =>
    if s.cfg.capacity.get c ≤ h.toNat then s.raise .invalidHandle (.handle c h.toNat)
    else s.finish1 .ok (BitVec.ofNat 64 (s.cfg.frameOff c h.toNat))

/-- TBL_BUFF (42 R98). -/
def execTblBuff (c : Chan) (h : Half) (s : State) : Result :=
  s.simpleStep (.tblBuff c h) fun _ =>
    if s.cfg.capacity.get c ≤ h.toNat then s.raise .invalidHandle (.handle c h.toNat)
    else s.finish2 .ok c.win.id (BitVec.ofNat 64 (s.cfg.frameOff c h.toNat))

/-- TBL_BPF (42 R99). -/
def execTblBpf (c : Chan) (s : State) : Result :=
  s.simpleStep (.tblBpf c) fun _ => s.finish1 .ok (BitVec.ofNat 64 (s.cfg.frameBytes.get c))

end Sys2Proof.Machine
end

