-- ==== Sys2Proof/Machine/Dispatch.lean ====
section
/-! DEFINITION. One step of a command by the thread whose turn it is: one arm per command. -/

namespace Sys2Proof.Machine

open Sys2Proof

def exec (i : Instr) (s : State) : Host.Outcome State Fault Refusal :=
  match i with
  -- register and frame-memory access (40)
  | .regRd off => Sys2Proof.Machine.execRegRd off s
  | .regWr off value => Sys2Proof.Machine.execRegWr off value s
  | .memRd8 w a => Sys2Proof.Machine.execMemRd8 w a s
  | .memWr8 w a byte => Sys2Proof.Machine.execMemWr8 w a byte s
  -- lifecycle (41)
  | .openDev hash seed => Sys2Proof.Machine.execOpenDev hash seed s
  | .closeDev => Sys2Proof.Machine.execCloseDev s
  -- ring table (42)
  | .tblNumAvail c => Sys2Proof.Machine.execTblNumAvail c s
  | .tblAcqHead c => Sys2Proof.Machine.execTblAcqHead c s
  | .tblMarkRel c h => Sys2Proof.Machine.execTblMarkRel c h s
  | .tblMarkTail c bytes => Sys2Proof.Machine.execTblMarkTail c bytes s
  | .tblOffset c h => Sys2Proof.Machine.execTblOffset c h s
  | .tblBuff c h => Sys2Proof.Machine.execTblBuff c h s
  | .tblBpf c => Sys2Proof.Machine.execTblBpf c s
  -- channel controller (43)
  | .chAcquire c timeoutUs => Sys2Proof.Machine.execChAcquire c timeoutUs s
  | .chTryAcquire c => Sys2Proof.Machine.execChTryAcquire c s
  | .chRelease c h length => Sys2Proof.Machine.execChRelease c h length s
  | .chBuffer c h => Sys2Proof.Machine.execChBuffer c h s
  -- completion poller (44)
  | .pollDrain c => Sys2Proof.Machine.execPollDrain c s
  -- hardware clock (45)
  | .clkGet => Sys2Proof.Machine.execClkGet s
  | .clkSet ns => Sys2Proof.Machine.execClkSet ns s

end Sys2Proof.Machine
end

