-- ==== Sys2Proof/Machine/Fetch.lean ====
section
/-! DEFINITION. What the thread whose turn it is does next (spec 10 R20, 60 R121): its command in progress, or the
command at its pointer; and the placing of a command word where it is fetched next. -/

namespace Sys2Proof.Machine

open Sys2Proof

/-- What a host thread does next. -/
inductive Fetched where
  /-- it has no step: it is done, or there is no such thread -/
  | idle
  /-- the word at its pointer is illegal -/
  | illegal (w : CmdWord)
  /-- a step of this command -/
  | run (i : Instr)
  deriving DecidableEq, Repr, Inhabited

/-- The command in progress, or else the decoded word at `cp[t]` (10 R20). -/
def Thread.fetch (th : Thread) : Fetched :=
  match th.running with
  | some r => .run r.instr
  | none =>
    match th.stream[th.cp]? with
    | none => .idle
    | some w =>
      match decode w with
      | .ok i => .run i
      | .error _ => .illegal w

/-- What host thread `t` does next. -/
def State.fetch (s : State) (t : Nat) : Fetched :=
  match s.threads[t]? with
  | none => .idle
  | some th => th.fetch

/-- A thread with `w` at its command pointer and no command in progress. -/
def Thread.withWord (th : Thread) (w : CmdWord) : Thread :=
  { th with
    running := none
    stream := th.stream.take th.cp ++ List.replicate (th.cp - th.stream.length) 0 ++ [w] ++ th.stream.drop (th.cp + 1) }

/-- `s` with thread 0 next to step and `w` at its command pointer. -/
def State.placeWord (s : State) (w : CmdWord) : State :=
  { s.setThread 0 ((s.thread 0).withWord w) with turn := .host 0 }

/-- Whether the run's parameters are ones the model accepts (00 R8): a well-formed configuration, and T threads. -/
def State.configOk (s : State) : Bool := s.cfg.wf && decide (s.threads.length = s.cfg.threads)

end Sys2Proof.Machine
end

