-- ==== Sys2Proof/Machine/Step.lean ====
section
/-! DEFINITION. One step of the machine: the agent whose turn it is takes one step (spec 10 R14, 00 R12), and the next
agent is chosen. -/

namespace Sys2Proof.Machine

open Sys2Proof

/-- One step of host thread `t` (10 R20, 60 R121). -/
def hostStep (t : Nat) (s : State) : Result :=
  match s.fetch t with
  | .idle => .next s
  | .illegal w => s.raise .illegalCommand (.word w)
  | .run i => exec i s

/-- One step of the agent whose turn it is. -/
def agentStep (s : State) : Result :=
  match s.turn with
  | .host t => hostStep t s
  | .dma c => s.dmaStep c
  | .clock => s.clockStep
  | .loader => s.loaderStep

/-- One step of the machine. A machine with a fault has no further step (60 R126); a configuration that 00 R8 does not
allow is refused. -/
def step (s : State) : Host.Outcome State Fault Refusal :=
  if s.faults ≠ [] then .fault .halted
  else if s.configOk = false then .refused .illFormedConfig
  else match agentStep s with
    | .next s' => .next s'.schedule
    | .fault r => .fault r
    | .refused r => .refused r

/-- `s` with the command word `w`, numbered as the opcode table numbers it, at thread 0's command pointer, and thread 0
next to step (assumption 6). -/
def State.withFetchWord (s : State) (nbits w : Nat) : State := s.placeWord (tableWord nbits w)

end Sys2Proof.Machine
end

