-- ==== Sys2Proof/Machine/Runs.lean ====
section
/-! DEFINITION. Several steps in a row: of one command with no other agent between them, and of the CLOCK. They add no
behaviour; statements about whole commands are written with them. -/

namespace Sys2Proof.Machine

open Sys2Proof

/-- `n` steps of command `i` by the running thread, stopping at the first that does not answer a next state. -/
def execN (i : Instr) : Nat → State → Result
  | 0, s => .next s
  | n + 1, s =>
    match exec i s with
    | .next s' => execN i n s'
    | .fault r => .fault r
    | .refused r => .refused r

/-- Goes on from a step that answers a next state. -/
def andThen (r : Result) (k : State → Result) : Result :=
  match r with
  | .next s => k s
  | .fault e => .fault e
  | .refused e => .refused e

/-- `k` ticks of the CLOCK (45 R113). -/
def State.ticks (s : State) : Nat → State
  | 0 => s
  | k + 1 => s.tick.ticks k

/-- CLK_SET `ns` from its first program point and then CLK_GET, by the running thread, with ticks of the CLOCK in the
five gaps from the first write of the latch-out pulse to the end of the latch-in pulse: `a` inside the latch-out pulse,
`b` before CLK_GET's entry step, `c` before the latch-in pulse, `d` inside it, `e` before the field reads (45 R119). -/
def setThenGet (ns : Word64) (a b c d e : Nat) (s : State) : Result :=
  andThen (execN (.clkSet ns) 5 s) fun s1 =>
  andThen (execN (.clkSet ns) 1 (s1.ticks a)) fun s2 =>
  andThen (execN .clkGet 1 (s2.ticks b)) fun s3 =>
  andThen (execN .clkGet 1 (s3.ticks c)) fun s4 =>
  andThen (execN .clkGet 1 (s4.ticks d)) fun s5 =>
  execN .clkGet 4 (s5.ticks e)

end Sys2Proof.Machine
end

