-- ==== Sys2Proof/Safety.lean ====
section
/-! DEFINITION. The terms in which claims about the block are stated: where a thread is, what a completed command leaves,
what a register read may return, observations and final states (spec 10 R18, 70 R153), the invariants of the spec
(42 R88, 43 R108, 10 R22, R25, R27) and its fairness assumption (70 R151). -/

namespace Sys2Proof.Machine

open Sys2Proof

/-! ## Where a thread is -/

/-- Host thread `t` is next to step and has no command in progress. -/
structure State.Idle (s : State) (t : Nat) : Prop where
  turn : s.turn = .host t
  exists_thread : t < s.threads.length
  idle : (s.thread t).running = none

/-- Host thread `t` is next to step, at program point `p` of command `i`. -/
structure State.At (s : State) (t : Nat) (i : Instr) (p : Point) : Prop where
  turn : s.turn = .host t
  exists_thread : t < s.threads.length
  running : (s.thread t).running = some ⟨i, p⟩

/-- Bus steps are enabled and the bus is energised, in a well-formed configuration. -/
structure State.BusReady (s : State) : Prop where
  wf : s.cfg.wf = true
  responds : s.cfg.fabricResponds = true
  energized : s.busEnergized = true

/-! ## What a step leaves -/

/-- The state after thread `t` completes its command with the given contents of its three result registers: the command
pointer one further, no command in progress, and everything else as it was (10 R19). -/
def State.completes (s : State) (t : Nat) (rstat : Byte) (rv0 rv1 : Option Word64) : State :=
  s.setThread t { s.thread t with
    cp := (s.thread t).cp + 1, running := none, rstat := some rstat, rv0 := rv0, rv1 := rv1 }

/-- `s` with the fault record (code, agent, command index, info) appended and nothing else changed (60 R126). -/
def State.withFault (s : State) (code : FaultCode) (agent : Agent) (index : Option Nat) (info : FaultInfo) : State :=
  { s with faults := s.faults ++ [⟨code, agent, index, info⟩] }

/-- Only draws were taken between `s` and `s'`. -/
def State.DrawsOnly (s s' : State) : Prop := s' = { s with answers := s'.answers, drawn := s'.drawn }

/-- The values a read of register `r` may return once the bus is energised (10 R29 to R37). A register whose read is a
draw admits every value. -/
def State.ReadsAs (s : State) : Reg → Half → Prop
  | .sentinel, x => ∀ a v, s.image = .loaded a v → x = a
  | .version, x => ∀ a v, s.image = .loaded a v → x = v
  | .reset, _ => True
  | .loopback, x => s.cfg.fabricFaithful = true → ∀ l, s.loopback = some l → x = l
  | .time k, x => ∀ f, s.snap.get k = some f → x = f
  | .timeCtrl, _ => True
  | .ctrl _, _ => True
  | .status c, x => ∀ n rest, s.cmplQ.get c = n :: rest → x = n
  | .ready, x => ∀ c, x.getLsbD (s.cfg.readyBit.get c) = true ↔ s.cmplQ.get c ≠ []

/-- `raise Fault(code, info)` by host thread `t`. -/
def State.faultBy (s : State) (t : Nat) (code : FaultCode) (info : FaultInfo) : State :=
  s.withFault code (.host t) (some (s.thread t).cp) info

/-! ## The premises of claims about commands -/

/-- `dev` is OPEN. -/
def State.IsOpen (s : State) : Prop := ∃ tables, s.dev = .opened tables

/-- Host thread `t` is next to step, at program point `p` of command `i`, and `dev` is OPEN with these tables. -/
structure State.OpenAt (s : State) (t : Nat) (i : Instr) (p : Point) (tables : PerChan Table) : Prop where
  place : s.At t i p
  opened : s.dev = .opened tables

/-- Host thread `t` is before a READY read of the drain of command `i`, having retired `n` completions (44 R110). -/
def State.DrainAt (s : State) (t : Nat) (i : Instr) (n : Nat) (tables : PerChan Table) : Prop :=
  (s.OpenAt t i .start tables ∧ n = 0) ∨ s.OpenAt t i (.drain (.ready n)) tables

/-- A command that runs DrainChannel(c) (43 R100, R101; 44 R112). -/
def DrainsChannel (i : Instr) (c : Chan) : Prop :=
  i = .pollDrain c ∨ i = .chTryAcquire c ∨ ∃ us, i = .chAcquire c us

/-- The entry faults of a command other than OPEN and CLOSE (60 R121 steps 3 and 4): NOT_OPEN, and for a table, channel
or poller command CHANNEL_OWNER. -/
def EntryFaults (i : Instr) : Prop :=
  ∀ s t, s.Idle t →
    (¬ s.IsOpen → exec i s = .next (s.faultBy t .notOpen (.opcode i.opcode))) ∧
    (s.IsOpen → ∀ c, i.ownedChan = some c → t ≠ s.cfg.owner.get c →
      exec i s = .next (s.faultBy t .channelOwner (.owner c t)))

/-- The word `w` is illegal: it decodes to no command, and the thread that fetches it raises ILLEGAL_COMMAND (30 R61). -/
def IllegalWord (w : CmdWord) : Prop :=
  (∃ e, decode w = .error e) ∧
    ∀ s t, s.Idle t → s.faults = [] → s.configOk = true → (s.thread t).stream[(s.thread t).cp]? = some w →
      step s = .next (s.faultBy t .illegalCommand (.word w))

/-- memCheck(w, a, t) passes (20 R44). -/
def State.MayAccess (s : State) (tables : PerChan Table) (t : Nat) (w : Window) (a : Nat) : Prop :=
  (w = .framer ∨ w = .deframer) ∧ s.mapped.has w = true ∧ a < s.cfg.winBytes w ∧
    ∀ c, c.win = w → s.cfg.base.get c ≤ a → a < s.cfg.regionEnd c →
      (tables.get c).slots[(a - s.cfg.base.get c) / s.cfg.frameBytes.get c]? = some .inFlight ∧ t = s.cfg.owner.get c

/-- A write of `v` to TIME_CTRL that 45 R115 refuses: an undefined bit, or both latch bits. -/
def State.BadTimeCtrl (s : State) (v : Half) : Prop :=
  v &&& ~~~(s.cfg.latchIn ||| s.cfg.latchOut) ≠ 0 ∨
    v &&& (s.cfg.latchIn ||| s.cfg.latchOut) = s.cfg.latchIn ||| s.cfg.latchOut

/-- edge(m) of 45 R115 for a write of `v`. -/
def State.Edge (s : State) (v m : Half) : Prop :=
  (s.cfg.latchEdge = .rising ∧ s.tc &&& m = 0 ∧ v &&& m ≠ 0) ∨
    (s.cfg.latchEdge = .falling ∧ s.tc &&& m ≠ 0 ∧ v &&& m = 0)

/-- A pulse of the latch bit `m` (a write of `m`, then of 0) makes the active edge of `m` and no edge of the other bit
`other` (45 R115). It is so where `tc` holds neither bit, as after every clock command and every Load; a raw write of
TIME_CTRL can leave one of them set. -/
def State.PulseWorks (s : State) (m other : Half) : Prop :=
  match s.cfg.latchEdge with
  | .rising => s.tc &&& m = 0
  | .falling => s.tc &&& other = 0

/-- A slot table after AcquireHead with a frame available (42 R90). -/
def Table.afterAcquire (t : Table) (n : Nat) : Table :=
  { t with slots := t.slots.set t.head .inFlight, head := (t.head + 1) % n, avail := t.avail - 1 }

/-- A slot table after MarkReleased(h) without a fault (42 R91). -/
def Table.afterRelease (t : Table) (h : Nat) : Table := { t with slots := t.slots.set h .pending }

/-- A slot table after MarkTail(bytes) without a fault (42 R92). -/
def Table.afterMark (t : Table) (n bytes : Nat) : Table :=
  { t with
    lens := t.lens.set t.tail bytes, slots := t.slots.set t.tail .free, tail := (t.tail + 1) % n, avail := t.avail + 1 }

/-- The state with the table of channel `c` replaced. -/
def State.withTable (s : State) (tables : PerChan Table) (c : Chan) (t : Table) : State :=
  { s with dev := .opened (tables.set c t) }

/-- OPEN's three check reads in a faithful fabric return `a` (sentinel), `v` (version) and `l` (loopback), and take these
draws: the two of an UNKNOWN image, and the one of a loopback that holds no value (10 R29, R30, R32; 41 R79). -/
def State.ChecksRead (s : State) (a v l : Half) (draws : List Word64) : Prop :=
  ∃ d1 d2, draws = d1 ++ d2 ∧
    ((s.image = .loaded a v ∧ d1 = []) ∨ (s.image = .unknown ∧ d1 = [a.setWidth 64, v.setWidth 64])) ∧
    ((s.loopback = some l ∧ d2 = []) ∨ (s.loopback = none ∧ d2 = [l.setWidth 64]))

/-! ## Observations and final states -/

/-- An observation of a result register: a register that no command has written faults (10 R18). -/
def observe {α : Type} (r : Option α) : Except Fault α :=
  match r with
  | some x => .ok x
  | none => .error .resultUnwritten

/-- RSTAT[t]. -/
def State.observeRstat (s : State) (t : Nat) : Except Fault Byte := observe (s.thread t).rstat

/-- RV0[t]. -/
def State.observeRv0 (s : State) (t : Nat) : Except Fault Word64 := observe (s.thread t).rv0

/-- RV1[t]. -/
def State.observeRv1 (s : State) (t : Nat) : Except Fault Word64 := observe (s.thread t).rv1

/-- A final state (70 R153): no fault, and every thread is done. -/
def State.final (s : State) : Bool :=
  s.faults.isEmpty && s.threads.all fun th => th.running.isNone && decide (th.stream.length ≤ th.cp)

/-! ## Invariants -/

/-- INV1 to INV5 of 42 R88, with the ranges of 10 R23, for a table of `n` frames of `frame` bytes. -/
structure Table.Inv (t : Table) (n frame : Nat) : Prop where
  slots_length : t.slots.length = n
  lens_length : t.lens.length = n
  head_lt : t.head < n
  tail_lt : t.tail < n
  avail_le : t.avail ≤ n
  head_eq : t.head = (t.tail + n - t.avail) % n
  free_from_head : ∀ j, j < t.avail → t.slots[(t.head + j) % n]? = some .free
  used_from_tail : ∀ j, j < n - t.avail →
    t.slots[(t.tail + j) % n]? = some (if j < t.pendingCount then .pending else .inFlight)
  len_le : ∀ x ∈ t.lens, x ≤ frame

/-- Every table satisfies 42 R88 while `dev` is OPEN. -/
def State.TablesInv (s : State) : Prop :=
  ∀ tables, s.dev = .opened tables → ∀ c, (tables.get c).Inv (s.cfg.capacity.get c) (s.cfg.frameBytes.get c)

/-- A descriptor has the form of its channel's direction (10 R25). -/
def Desc.hasDir : Desc → Dir → Bool
  | .mm2s _ _, .mm2s => true
  | .s2mm _, .s2mm => true
  | .mm2s _ _, .s2mm => false
  | .s2mm _, .mm2s => false

/-- The fabric queues of 10 R25: no descriptor queue is over its depth (43 R104), every descriptor has the form of its
channel's direction, and the state that belongs to one direction is unused in the other. -/
def State.QueuesInv (s : State) : Prop :=
  ∀ c, (s.descQ.get c).length ≤ s.cfg.queueDepth.get c ∧ (∀ d ∈ s.descQ.get c, d.hasDir c.dir = true) ∧
    (c.dir = .s2mm → s.mm2sStart.get c = none ∧ s.streamOut.get c = []) ∧
    (c.dir = .mm2s → s.streamIn.get c = [])

/-- The windows mapped at a program point of OPEN (41 R78, R82). -/
def OpenPoint.mapped : OpenPoint → Mapped
  | .map .node => ⟨false, false, false, false⟩
  | .map .reg => ⟨false, false, false, false⟩
  | .map .framer => ⟨true, false, false, false⟩
  | .map .deframer => ⟨true, true, false, false⟩
  | .memWrite _ _ => ⟨true, true, true, true⟩
  | .memRead _ _ => ⟨true, true, true, true⟩
  | .energise => ⟨true, true, true, false⟩
  | .sentinel => ⟨true, true, true, false⟩
  | .version _ => ⟨true, true, true, false⟩
  | .loopback _ _ => ⟨true, true, true, false⟩
  | .load => ⟨true, true, true, false⟩
  | .recheckSentinel => ⟨true, true, true, false⟩
  | .recheckVersion _ => ⟨true, true, true, false⟩
  | .resetSet _ => ⟨true, true, true, false⟩
  | .resetClear _ => ⟨true, true, true, false⟩
  | .tag _ => ⟨true, true, true, false⟩
  | .save _ => ⟨true, true, true, false⟩
  | .regWrite _ _ _ => ⟨true, true, true, false⟩
  | .regRead _ _ _ => ⟨true, true, true, false⟩
  | .restore _ _ => ⟨true, true, true, false⟩
  | .mapTest _ => ⟨true, true, true, false⟩

/-- Whether the energising read of OPEN lies behind a program point (41 R79 step 2). -/
def OpenPoint.energised : OpenPoint → Bool
  | .map _ => false
  | .energise => false
  | .sentinel => true
  | .version _ => true
  | .loopback _ _ => true
  | .load => true
  | .recheckSentinel => true
  | .recheckVersion _ => true
  | .resetSet _ => true
  | .resetClear _ => true
  | .tag _ => true
  | .save _ => true
  | .regWrite _ _ _ => true
  | .regRead _ _ _ => true
  | .restore _ _ => true
  | .mapTest _ => true
  | .memWrite _ _ => true
  | .memRead _ _ => true

/-- What `dev`, `mapped`, `busEnergized` and thread 0's place in OPEN or CLOSE have to do with each other (10 R22,
41 R77 to R85, 70 R138, R143). -/
def State.lifecycleOk (s : State) : Prop :=
  match s.dev with
  | .closed =>
    s.mapped = ⟨false, false, false, false⟩ ∧ s.busEnergized = false ∧
      ∀ i p, (s.thread 0).running = some ⟨i, p⟩ → i.isLifecycle = true → i ≠ .closeDev ∧ p = .start
  | .opening =>
    ∃ hash seed p, (s.thread 0).running = some ⟨.openDev hash seed, .opening p⟩ ∧
      s.mapped = p.mapped ∧ s.busEnergized = p.energised
  | .opened _ =>
    s.mapped = ⟨true, true, true, false⟩ ∧ s.busEnergized = true ∧
      ∀ i p, (s.thread 0).running = some ⟨i, p⟩ → i.isLifecycle = true → i = .closeDev

/-- The lifecycle invariant: only thread 0 is ever in OPEN or CLOSE, and `lifecycleOk`. -/
def State.LifecycleInv (s : State) : Prop :=
  (∀ t i p, (s.thread t).running = some ⟨i, p⟩ → i.isLifecycle = true → t = 0) ∧ s.lifecycleOk

/-- Only a channel's owner is in a command of that channel (20 R55, 60 R121). -/
def State.OwnersInv (s : State) : Prop :=
  ∀ t i p c, (s.thread t).running = some ⟨i, p⟩ → i.ownedChan = some c → t = s.cfg.owner.get c

/-- Whether a program point is one of its command's own (10 R20). -/
def Running.ownPoint (r : Running) : Bool :=
  match r.instr, r.point with
  | _, .start => true
  | .chAcquire _ _, .drain _ => true
  | .chTryAcquire _, .drain _ => true
  | .pollDrain _, .drain _ => true
  | .chAcquire _ _, .wait => true
  | .chRelease _ _ _, .relStart => true
  | .chRelease c _ _, .relEnd => decide (c.dir = .mm2s)
  | .clkGet, .clkGet _ => true
  | .clkSet _, .clkSet _ => true
  | .openDev _ _, .opening _ => true
  | i, .cut => !i.isLifecycle
  | _, _ => false

/-- Whether a command in progress is before a bus step: not before an internal step, not in CH_ACQUIRE's `wait`, not
waiting for the load, and not cut off by a CLOSE. -/
def Running.onBus (r : Running) : Bool :=
  r.ownPoint && !r.atInternal && decide (r.point ≠ .wait) && decide (r.point ≠ .cut) &&
    decide (r.point ≠ .opening .load)

/-- Every command in progress is at one of its own program points. -/
def State.PointsInv (s : State) : Prop := ∀ t r, (s.thread t).running = some r → r.ownPoint = true

/-- Whether OPEN's reset pulse lies behind a program point (41 R79 step 5). -/
def OpenPoint.afterReset : OpenPoint → Bool
  | .map _ => false
  | .energise => false
  | .sentinel => false
  | .version _ => false
  | .loopback _ _ => false
  | .load => false
  | .recheckSentinel => false
  | .recheckVersion _ => false
  | .resetSet _ => false
  | .resetClear _ => true
  | .tag _ => true
  | .save _ => true
  | .regWrite _ _ _ => true
  | .regRead _ _ _ => true
  | .restore _ _ => true
  | .mapTest _ => true
  | .memWrite _ _ => true
  | .memRead _ _ => true

/-- From OPEN's reset pulse to its end the fabric queues are empty (70 R139). -/
def State.QuietOpenInv (s : State) : Prop :=
  ∀ hash seed p, s.dev = .opening → (s.thread 0).running = some ⟨.openDev hash seed, .opening p⟩ → p.afterReset = true →
    s.descQ = .all [] ∧ s.cmplQ = .all [] ∧ s.mm2sStart = .all none

/-- The handle of channel `c` that a CH_RELEASE in progress has made PENDING and not yet handed over. -/
def Running.handing (r : Running) (c : Chan) : Option Half :=
  match r with
  | ⟨.chRelease d h _, .relStart⟩ => if d = c then some h else none
  | ⟨.chRelease d h _, .relEnd⟩ => if d = c then some h else none
  | _ => none

/-- Completions of channel `c` that a drain in progress has marked and not yet acknowledged. -/
def Running.unacked (r : Running) (c : Chan) : Nat :=
  match r.point with
  | .drain (.ack _) => if r.instr.ownedChan = some c then 1 else 0
  | _ => 0

/-- The start offset that a CH_RELEASE in progress has programmed without its end. -/
def Running.halfProgrammed (r : Running) (cfg : Config) (c : Chan) : Option Half :=
  match r with
  | ⟨.chRelease d h _, .relEnd⟩ => if d = c then some (BitVec.ofNat 16 (cfg.frameOff c h.toNat)) else none
  | _ => none

/-- Whether a drain of channel `c` in progress holds a completion that it has seen. -/
def Running.holdsCompletion (r : Running) (c : Chan) : Bool :=
  match r.point with
  | .drain (.status _) => decide (r.instr.ownedChan = some c)
  | .drain (.mark _ _) => decide (r.instr.ownedChan = some c)
  | .drain (.ack _) => decide (r.instr.ownedChan = some c)
  | _ => false

/-- The command that the owner of channel `c` has in progress. -/
def State.ownerRunning (s : State) (c : Chan) : Option Running := (s.thread (s.cfg.owner.get c)).running

/-- `Running.handing` of the owner's command. -/
def State.handing (s : State) (c : Chan) : Option Half := (s.ownerRunning c).bind fun r => r.handing c

/-- `Running.unacked` of the owner's command. -/
def State.unacked (s : State) (c : Chan) : Nat := (s.ownerRunning c).elim 0 fun r => r.unacked c

/-- The start offset of a descriptor. -/
def Desc.first : Desc → Half
  | .mm2s first _ => first
  | .s2mm first => first

/-- The correspondence of 43 R108 for channel `c`, with the command that its owner has in progress accounted for. Where
the owner has none (or none of this channel), `counts` is P(c) = |descQ[c]| + |cmplQ[c]|, `start` is `mm2sStart[c]` =
none, and `order` says that the j-th descriptor is that of the PENDING slot |cmplQ[c]| + j places after the tail. -/
structure State.Corresponds (s : State) (c : Chan) (t : Table) : Prop where
  counts : t.pendingCount + s.unacked c =
    (s.descQ.get c).length + (s.cmplQ.get c).length + (if (s.handing c).isSome then 1 else 0)
  start : s.mm2sStart.get c = (s.ownerRunning c).bind fun r => r.halfProgrammed s.cfg c
  holds : ∀ r, s.ownerRunning c = some r → r.holdsCompletion c = true → s.cmplQ.get c ≠ []
  order : ∀ j d, (s.descQ.get c)[j]? = some d →
    d.first.toNat = s.cfg.frameOff c ((t.tail + ((s.cmplQ.get c).length - s.unacked c) + j) % s.cfg.capacity.get c)
  handed : ∀ h, s.handing c = some h → h.toNat = (t.tail + t.pendingCount - 1) % s.cfg.capacity.get c

/-- The correspondence of 43 R108 for channel `c` while `dev` is OPEN. -/
def State.CorrespondenceInv (s : State) (c : Chan) : Prop :=
  ∀ tables, s.dev = .opened tables → s.Corresponds c (tables.get c)

/-- No thread has a command in progress that breaks the correspondence of channel `c` (70 R148). -/
def State.NoBreakingCommand (s : State) (c : Chan) : Prop :=
  ∀ t i p, (s.thread t).running = some ⟨i, p⟩ → i.breaks s.cfg c = false

/-- No CH_RELEASE or drain of channel `c` is part-way through (43 R108): the owner is in no command of the channel, or
has not begun it, or waits in CH_ACQUIRE between two drains, or has been cut off by a CLOSE. -/
def State.NotPartWay (s : State) (c : Chan) : Prop :=
  ∀ r, s.ownerRunning c = some r → r.instr.ownedChan = some c → r.point = .start ∨ r.point = .wait ∨ r.point = .cut

/-- 43 R108's own words for channel `c` with these tables: `mm2sStart[c]` = none, P(c) = |descQ[c]| + |cmplQ[c]|, and the
PENDING slots from the tail on are those of the completions and then of the descriptors, in order: the j-th descriptor
starts at the frame of the slot |cmplQ[c]| + j places after the tail. -/
def State.InStep (s : State) (c : Chan) (t : Table) : Prop :=
  s.mm2sStart.get c = none ∧ t.pendingCount = (s.descQ.get c).length + (s.cmplQ.get c).length ∧
    ∀ j d, (s.descQ.get c)[j]? = some d →
      d.first.toNat = s.cfg.frameOff c ((t.tail + (s.cmplQ.get c).length + j) % s.cfg.capacity.get c)

/-- While `dev` is not OPEN, every command in progress other than OPEN and CLOSE has been cut off by a CLOSE (60 R122):
such a command starts only while `dev` is OPEN, and only CLOSE ends that. -/
def State.CutOffInv (s : State) : Prop :=
  ¬ s.IsOpen → ∀ t i p, (s.thread t).running = some ⟨i, p⟩ → i.isLifecycle = false → p = .cut

/-- Every window's memory is in canonical form (10 R27). -/
def State.MemoryInv (s : State) : Prop := s.mem.wf = true

/-! ## Runs and fairness -/

/-- The machine gets from the first state to the second in some number of steps. -/
inductive Reaches : State → State → Prop where
  | refl (s) : Reaches s s
  | step {s u v} : Reaches s u → Machine.step u = .next v → Reaches s v

/-- An infinite sequence of states, each the next of the one before. -/
def IsRun (r : Nat → State) : Prop := ∀ n, step (r n) = .next (r (n + 1))

/-- Thread `t` takes a deadline test that is not expired, and waits, between step `n` and the next: the CH_ACQUIRE at
its command pointer `p`. -/
def EntersWait (r : Nat → State) (t p n : Nat) : Prop :=
  (r n).turn = .host t ∧ ((r n).thread t).cp = p ∧
    ∃ i, ((r (n + 1)).thread t).running = some ⟨i, .wait⟩ ∧ ((r n).thread t).running ≠ some ⟨i, .wait⟩

/-- The fairness assumption of 70 R151: no CH_ACQUIRE draws "not expired" infinitely often. An assumption for liveness
claims; no definition of the model uses it. -/
def AcquireFair (r : Nat → State) : Prop := ∀ t p, ∃ n, ∀ m, n ≤ m → ¬ EntersWait r t p m

/-- Every agent is scheduled again and again (70 R151, for liveness claims only). -/
def AgentsFair (r : Nat → State) : Prop := ∀ a n, ∃ m, n ≤ m ∧ (r m).turn = a

end Sys2Proof.Machine
end

