-- ==== Sys2Proof/Certificates/Slice0/Obligations.lean ====
section
/-! DEFINITION. The statements for the provers, in the order of OBLIGATIONS.json. Each follows the rules of spec/ that its
docstring cites. A command's result statement gives the whole next state, so it is also its frame: what the equation does
not change is unchanged. -/

open Sys2Proof Sys2Proof.Machine

/-! ## Encoding (30) -/

/-- R58 to R60: every command, with every operand value its fields admit, is read back from its word. -/
def Obligations.DecodeOfEncode : Prop := ∀ i : Instr, i.wellFormed = true → decode (encode i) = .ok i

/-- R61: every word that decodes is the encoding of the well-formed command it decodes to, so no bit is ignored. -/
def Obligations.EncodeOfDecode : Prop := ∀ w i, decode w = .ok i → i.wellFormed = true ∧ encode i = w

/-- R61: at most one row of the opcode table matches; a word with no row, or a memory command with CH = 3, is illegal and
the step that fetches it raises ILLEGAL_COMMAND; any other word decodes to its row's command. -/
def Obligations.DecodeFollowsTheTable : Prop :=
  ∀ w,
    (∀ r ∈ opcodeTable, ∀ q ∈ opcodeTable, r.matches w = true → q.matches w = true → r.mnemonic = q.mnemonic) ∧
    (∀ r ∈ opcodeTable, r.matches w = true →
      ¬ ((r.mnemonic = "MEM_RD8" ∨ r.mnemonic = "MEM_WR8") ∧ fieldCh w = 3) →
        ∃ i, r.build w = some i ∧ decode w = .ok i) ∧
    ((∀ r ∈ opcodeTable, r.matches w = false) ∨
      (∃ r ∈ opcodeTable, r.matches w = true ∧ (r.mnemonic = "MEM_RD8" ∨ r.mnemonic = "MEM_WR8") ∧ fieldCh w = 3) →
        IllegalWord w)

/-- R62, with R60's table of the fields that must be zero: exactly these words are illegal. -/
def Obligations.ReservedEncodings : Prop :=
  ∀ w,
    let op := fieldOp w
    let bad :=
      op ∉ [0x01, 0x02, 0x03, 0x04, 0x10, 0x11, 0x20, 0x21, 0x22, 0x23, 0x24, 0x25, 0x26, 0x30, 0x31, 0x32, 0x33, 0x38,
        0x40, 0x41] ∨
      fieldZ w ≠ 0 ∨
      (op ∈ [0x01, 0x02, 0x10, 0x11, 0x40, 0x41] ∧ fieldCh w ≠ 0) ∨
      (op ∈ [0x03, 0x11, 0x20, 0x21, 0x23, 0x26, 0x30, 0x31, 0x38, 0x40, 0x41] ∧ fieldA w ≠ 0) ∨
      (op ∈ [0x01, 0x11, 0x20, 0x21, 0x22, 0x24, 0x25, 0x26, 0x31, 0x33, 0x38, 0x40] ∧ fieldB w ≠ 0) ∨
      (op ∈ [0x20, 0x21, 0x22, 0x23, 0x24, 0x25, 0x26, 0x30, 0x31, 0x32, 0x33, 0x38] ∧ 4 ≤ (fieldCh w).toNat) ∨
      (op ∈ [0x03, 0x04] ∧ 3 ≤ (fieldCh w).toNat) ∨
      (op = 0x04 ∧ 256 ≤ (fieldA w).toNat)
    (bad → IllegalWord w) ∧ (¬ bad → ∃ i, decode w = .ok i)

/-- R58 to R60 on a few words of 95 (a sanity statement). -/
def Obligations.SampleWordsDecode : Prop :=
  decode 0x01000006000000000000000000000000 = .ok (.regRd 0x06) ∧
  decode 0x02000006000000000000000000012345 = .ok (.regWr 0x06 0x12345) ∧
  decode 0x040000a5000000000000000000000000 = .ok (.memWr8 .framer 0 0xA5) ∧
  decode 0x10000007000000000000000000001234 = .ok (.openDev 0x1234 7) ∧
  decode 0x22020000000000000000000000000000 = .ok (.tblMarkRel .deframerMm2s 0) ∧
  decode 0x32000000000000000000000000000064 = .ok (.chRelease .framerMm2s 0 100) ∧
  decode 0x38010000000000000000000000000000 = .ok (.pollDrain .framerS2mm) ∧
  decode 0x4100000000000000000000000012d687 = .ok (.clkSet 1234567)

/-! ## The machine's step (10, 60) -/

/-- R14, R20, R121: a step of a host thread is `exec` of its command in progress, or of the command that the word at its
pointer decodes to when it has none; then the next agent is chosen. `exec` is read at that very state: the fetch changes
nothing. -/
def Obligations.StepRunsDecodedCommand : Prop :=
  ∀ (s : State) (t : Nat) (i : Instr), s.faults = [] → s.configOk = true → s.turn = .host t → t < s.threads.length →
    ((∃ p, (s.thread t).running = some ⟨i, p⟩) ∨
      ((s.thread t).running = none ∧ ∃ w, (s.thread t).stream[(s.thread t).cp]? = some w ∧ decode w = .ok i)) →
    (∀ s', exec i s = .next s' → step s = .next s'.schedule) ∧
    (∀ e, exec i s = .fault e → step s = .fault e) ∧
    (∀ e, exec i s = .refused e → step s = .refused e)

/-- R14, R20, R105, R113: the step of an agent that is not running a command. A tick of the CLOCK adds one to the counter
and changes nothing else. A DMA engine with no enabled step, a thread that is done, and a LOADER that no OPEN waits for
change nothing: that they may be scheduled at all is the model's choice (assumption 4). -/
def Obligations.StepRunsOtherAgents : Prop :=
  ∀ (s : State), s.faults = [] → s.configOk = true →
    (s.turn = .clock → step s = .next { s with counter := s.counter + 1 }.schedule) ∧
    (∀ c, s.turn = .dma c → (s.cfg.fabricResponds = false ∨ s.resetAsserted = true ∨ s.descQ.get c = []) →
      step s = .next s.schedule) ∧
    (∀ c s', s.turn = .dma c → s.dmaStep c = .next s' → step s = .next s'.schedule) ∧
    (s.turn = .loader → (∀ hash seed, (s.thread 0).running ≠ some ⟨.openDev hash seed, .opening .load⟩) →
      step s = .next s.schedule) ∧
    (∀ t, s.turn = .host t →
      (s.threads.length ≤ t ∨ ((s.thread t).running = none ∧ (s.thread t).stream.length ≤ (s.thread t).cp)) →
      step s = .next s.schedule)

/-- R121: the entry step's checks in their order, and its effect when none fails: `cur[t]` is the decoded command at its
first program point, and nothing else changes. -/
def Obligations.EntryStepChecks : Prop :=
  ∀ (s : State) (t : Nat) (w : CmdWord), s.Idle t → s.faults = [] → s.configOk = true →
      (s.thread t).stream[(s.thread t).cp]? = some w →
    (∀ e, decode w = .error e → step s = .next (s.faultBy t .illegalCommand (.word w))) ∧
    (∀ i, decode w = .ok i →
      (i.isLifecycle = true → t ≠ 0 → step s = .next (s.faultBy t .lifecycleOwner (.thread t))) ∧
      (∀ hash seed, i = .openDev hash seed → t = 0 → s.dev ≠ .closed →
        step s = .next (s.faultBy t .alreadyOpen (.phase s.dev.phase))) ∧
      (i = .closeDev → t = 0 → ¬ s.IsOpen → step s = .next (s.faultBy t .notOpen (.opcode 0x11))) ∧
      (i.isLifecycle = false → ¬ s.IsOpen → step s = .next (s.faultBy t .notOpen (.opcode i.opcode))) ∧
      (∀ c, i.ownedChan = some c → s.IsOpen → t ≠ s.cfg.owner.get c →
        step s = .next (s.faultBy t .channelOwner (.owner c t))) ∧
      ((∃ hash seed, i = .openDev hash seed ∧ t = 0 ∧ s.dev = .closed) ∨ (i = .closeDev ∧ t = 0 ∧ s.IsOpen) ∨
          (i.isLifecycle = false ∧ s.IsOpen ∧ ∀ c, i.ownedChan = some c → t = s.cfg.owner.get c) →
        exec i s = .next (s.putAt t i .start) ∧ step s = .next (s.putAt t i .start).schedule))

/-- R122: a later step of a command other than OPEN and CLOSE raises NOT_OPEN when `dev` is not OPEN, and when a CLOSE has
run since the command started, whatever `dev` is by then (the model's reading and form of the rule's last sentence and of
D42: the program point `cut`, assumption 20). Only thread 0's CLOSE ends OPEN, and it cuts off every such command, which
stays cut off until its own thread's next step. So while `dev` is not OPEN no such command is anywhere else. -/
def Obligations.LaterStepsCheckOpen : Prop :=
  (∀ (s : State) (t : Nat) (i : Instr) (p : Point), s.At t i p → i.isLifecycle = false → (¬ s.IsOpen ∨ p = .cut) →
    exec i s = .next (s.faultBy t .notOpen (.opcode i.opcode))) ∧
  (∀ (s s' : State), s.LifecycleInv → step s = .next s' → s.IsOpen → ¬ s'.IsOpen →
    s.turn = .host 0 ∧ (s.thread 0).running = some ⟨.closeDev, .start⟩ ∧
    ∀ t i p, (s.thread t).running = some ⟨i, p⟩ → i.isLifecycle = false → (s'.thread t).running = some ⟨i, .cut⟩) ∧
  (∀ (s s' : State) (t : Nat) (i : Instr), step s = .next s' → (s.thread t).running = some ⟨i, .cut⟩ → s.turn ≠ .host t →
    (s'.thread t).running = some ⟨i, .cut⟩) ∧
  (∀ (s s' : State), s.LifecycleInv → s.CutOffInv → step s = .next s' → s'.CutOffInv)

/-- R126: a step that faults appends one record and changes nothing else; the record names the agent that stepped, and a
host thread's command index; from then on no agent has a step, and the state is not final. -/
def Obligations.FaultHaltsTheMachine : Prop :=
  (∀ (s s' : State), step s = .next s' → s'.faults ≠ [] →
    ∃ code info idx, s' = s.withFault code s.turn idx info ∧
      (∀ t, s.turn = .host t → idx = some (s.thread t).cp) ∧ ((∀ t, s.turn ≠ .host t) → idx = none)) ∧
  (∀ (s : State), s.faults ≠ [] → step s = .fault .halted ∧ s.final = false)

/-- R18, R19, R20: a thread's command pointer and result registers change only when it completes the command it has in
progress; the pointer then advances by one, and RSTAT is written. An observation of a result register is its value, and
faults where no command has written it. -/
def Obligations.PointerMovesByOneAtFinish : Prop :=
  (∀ (s s' : State) (t : Nat), step s = .next s' →
    ((s'.thread t).cp = (s.thread t).cp ∧ (s'.thread t).rstat = (s.thread t).rstat ∧
      (s'.thread t).rv0 = (s.thread t).rv0 ∧ (s'.thread t).rv1 = (s.thread t).rv1) ∨
    (s.turn = .host t ∧ (s.thread t).running ≠ none ∧ (s'.thread t).running = none ∧
      (s'.thread t).cp = (s.thread t).cp + 1 ∧ (s'.thread t).rstat ≠ none)) ∧
  (∀ (s : State) (t : Nat),
    (∀ x, s.observeRstat t = .ok x ↔ (s.thread t).rstat = some x) ∧
    (s.observeRstat t = .error .resultUnwritten ↔ (s.thread t).rstat = none) ∧
    (∀ x, s.observeRv0 t = .ok x ↔ (s.thread t).rv0 = some x) ∧
    (s.observeRv0 t = .error .resultUnwritten ↔ (s.thread t).rv0 = none) ∧
    (∀ x, s.observeRv1 t = .ok x ↔ (s.thread t).rv1 = some x) ∧
    (s.observeRv1 t = .error .resultUnwritten ↔ (s.thread t).rv1 = none))

/-- R15, R56, R135: no step writes the configuration, the number of threads or a command stream, and no step of one agent
touches another thread's own state, but for two: the LOADER's, which moves the OPEN that waits for it past the load, and
CLOSE, which cuts off the other threads' commands in progress (R122; assumption 20). -/
def Obligations.ThreadsAreSeparate : Prop :=
  ∀ (s s' : State), step s = .next s' →
    s'.cfg = s.cfg ∧ s'.threads.length = s.threads.length ∧
    ∀ t, (s'.thread t).stream = (s.thread t).stream ∧
      (s.turn ≠ .host t → s'.thread t = s.thread t ∨
        (s.turn = .loader ∧ t = 0 ∧ ∃ hash seed,
          (s.thread 0).running = some ⟨.openDev hash seed, .opening .load⟩ ∧
          s'.thread 0 = { s.thread 0 with running := some ⟨.openDev hash seed, .opening .recheckSentinel⟩ }) ∨
        (∃ closer i p, s.turn = .host closer ∧ (s.thread closer).running = some ⟨.closeDev, .start⟩ ∧
          (s.thread t).running = some ⟨i, p⟩ ∧ i.isLifecycle = false ∧
          s'.thread t = { s.thread t with running := some ⟨i, .cut⟩ }))

/-- R38: the power-on values. The counter is a free value (assumption 3), as is the first agent to step (assumption 4);
`sched`, `answers` and `drawn` are the model's own (10 R15; assumptions 3 and 4). -/
def Obligations.PowerOnValues : Prop :=
  (∀ cfg streams, let s := State.powerOn cfg streams
    (∀ t < streams.length, (s.thread t).cp = 0 ∧ (s.thread t).running = none ∧ (s.thread t).rstat = none ∧
      (s.thread t).rv0 = none ∧ (s.thread t).rv1 = none ∧ some (s.thread t).stream = streams[t]?) ∧
    s.dev = .closed ∧ s.mapped = ⟨false, false, false, false⟩ ∧ s.busEnergized = false ∧ s.faults = [] ∧
    s.image = cfg.poweronImage ∧ s.loopback = none ∧ s.resetAsserted = false ∧ s.loadCount = 0 ∧
    (∀ c, s.descQ.get c = [] ∧ s.cmplQ.get c = [] ∧ s.mm2sStart.get c = none ∧ s.streamOut.get c = [] ∧
      s.streamIn.get c = []) ∧
    s.counter = Config.freeWord 0 ∧ (∀ k, s.snap.get k = none ∧ s.wr.get k = none) ∧ s.tc = 0 ∧
    ∀ w a, s.byteAt w a = none) ∧
  State.reset = State.powerOn Config.reference [[]]

/-- R12 in the model's reading (assumption 2: after an entry step or a bus step that leaves a thread before an internal step,
the same thread steps next): no other agent steps between a bus step, or the entry step, and the internal steps after it. Elsewhere the next
agent is the next of the schedule (the model's form of R14's free choice, assumption 4). -/
def Obligations.InternalStepsKeepTheTurn : Prop :=
  ∀ (s s' : State) (t : Nat), step s = .next s' → s.turn = .host t → s'.faults = [] →
    (∀ r, (s'.thread t).running = some r → r.atInternal = true → s'.turn = .host t ∧ s'.sched = s.sched) ∧
    ((∀ r, (s'.thread t).running = some r → r.atInternal = false) →
      ∀ a rest, s.sched = a :: rest → s'.turn = a ∧ s'.sched = rest)

/-! ## Registers and frame memory (10, 20, 40) -/

/-- R73, with R67 and R29 to R37: REG_RD of every register completes with a value the register may read, whichever it is;
RV1 is unchanged, and a read changes nothing but the draws taken. -/
def Obligations.RegReadReturns : Prop :=
  ∀ off, EntryFaults (.regRd off) ∧
    ∀ (s : State) (t : Nat) (r : Reg) (tables : PerChan Table), s.OpenAt t (.regRd off) .start tables → s.BusReady →
        off.toNat = s.cfg.off r →
      (∃ x u, s.DrawsOnly u ∧ s.ReadsAs r x ∧
        exec (.regRd off) s = .next (u.completes t 0x00 (some (x.setWidth 64)) (s.thread t).rv1)) ∧
      (∀ x, s.ReadsAs r x → ∃ u, s.DrawsOnly u ∧
        exec (.regRd off) { s with answers := [x.setWidth 64] } =
          .next (u.completes t 0x00 (some (x.setWidth 64)) (s.thread t).rv1))

/-- R69, R43: the checks of a register bus step come first, the odd offset before the unmapped one. -/
def Obligations.RegisterOffsetChecks : Prop :=
  ∀ (s : State) (t : Nat) (i : Instr) (off : Half) (tables : PerChan Table),
      (i = .regRd off ∨ ∃ v, i = .regWr off v) → s.OpenAt t i .start tables →
    s.cfg.fabricResponds = true →
    (off.toNat % 2 = 1 → exec i s = .next (s.faultBy t .regMisaligned (.offset off.toNat))) ∧
    (off.toNat % 2 = 0 → (s.cfg.regWinBytes ≤ off.toNat ∨ ∀ r, off.toNat ≠ s.cfg.off r) →
      exec i s = .next (s.faultBy t .regUnmapped (.offset off.toNat)))

/-- R67, R68, R143: OPEN's energising read sets `busEnergized` and takes one draw; a register write before the bus is
energised faults. -/
def Obligations.BusEnergising : Prop :=
  (∀ (s : State) (t : Nat) hash seed, s.At t (.openDev hash seed) (.opening .energise) → s.cfg.wf = true →
      s.cfg.fabricResponds = true →
    s.busEnergized = false → ∃ u, s.DrawsOnly u ∧
      exec (.openDev hash seed) s =
        .next ({ u with busEnergized := true }.putAt t (.openDev hash seed) (.opening .sentinel))) ∧
  (∀ (s : State) (t : Nat) (off : Half) (v : Word64) (r : Reg) (tables : PerChan Table),
      s.OpenAt t (.regWr off v) .start tables → s.cfg.wf = true → s.cfg.fabricResponds = true →
    off.toNat = s.cfg.off r → s.busEnergized = false →
      exec (.regWr off v) s = .next (s.faultBy t .busNotEnergized (.offset off.toNat)))

/-- R68, R70, R104, R109, R115: the writes that REG_WR refuses with REG_ACCESS, of the value truncated to 16 bits. -/
def Obligations.RegWriteRefused : Prop :=
  ∀ (s : State) (t : Nat) (off : Half) (v : Word64) (r : Reg) (tables : PerChan Table),
      s.OpenAt t (.regWr off v) .start tables → s.BusReady → off.toNat = s.cfg.off r →
    let x : Half := v.setWidth 16
    (r = .sentinel ∨ r = .version ∨ r = .ready ∨ (r = .reset ∧ x ≠ 0 ∧ x ≠ 1) ∨
      (∃ c, r = .ctrl c ∧ s.resetAsserted = true) ∨ (∃ c, r = .status c ∧ (s.resetAsserted = true ∨ x ≠ 0)) ∨
      (r = .timeCtrl ∧ s.BadTimeCtrl x)) →
    exec (.regWr off v) s = .next (s.faultBy t .regAccess (.access off.toNat x))

/-- R71 (LOOPBACK) and R114 (TIMEk), through REG_WR: the value is truncated to 16 bits, the result values are kept. -/
def Obligations.LoopbackAndTimeFieldWrites : Prop :=
  ∀ off v, EntryFaults (.regWr off v) ∧
    ∀ (s : State) (t : Nat) (tables : PerChan Table), s.OpenAt t (.regWr off v) .start tables → s.BusReady →
      (off.toNat = s.cfg.off .loopback → exec (.regWr off v) s =
        .next ({ s with loopback := some (v.setWidth 16) }.completes t 0x00 (s.thread t).rv0 (s.thread t).rv1)) ∧
      (∀ k, off.toNat = s.cfg.off (.time k) → exec (.regWr off v) s =
        .next ({ s with wr := s.wr.set k (some (v.setWidth 16)), snap := s.snap.set k none }.completes t 0x00
          (s.thread t).rv0 (s.thread t).rv1))

/-- R70 (the last clause, where a DMA engine that has no step answers the same state, is the model's choice, assumption 4):
RESET <- 1, RESET <- 0, any other value; and what else holds while reset is asserted. The counter after RESET <- 1
is free: every value is admitted. -/
def Obligations.ResetWrite : Prop :=
  (∀ (s : State) (t : Nat) (off : Half) (v : Word64) (tables : PerChan Table),
      s.OpenAt t (.regWr off v) .start tables → s.BusReady → off.toNat = s.cfg.off .reset →
    let x : Half := v.setWidth 16
    let cleared (u : State) (n : Word64) : State :=
      { u with
        resetAsserted := true, descQ := .all [], cmplQ := .all [], mm2sStart := .all none, counter := n,
        snap := .all none, wr := .all none, loopback := none }
    (x = 1 → (∃ u n, s.DrawsOnly u ∧
        exec (.regWr off v) s = .next ((cleared u n).completes t 0x00 (s.thread t).rv0 (s.thread t).rv1)) ∧
      ∀ n rest, exec (.regWr off v) { s with answers := n :: rest } =
        .next ((cleared { s with answers := rest } n).completes t 0x00 (s.thread t).rv0 (s.thread t).rv1)) ∧
    (x = 0 → exec (.regWr off v) s =
      .next ({ s with resetAsserted := false }.completes t 0x00 (s.thread t).rv0 (s.thread t).rv1)) ∧
    (x ≠ 0 → x ≠ 1 → exec (.regWr off v) s = .next (s.faultBy t .regAccess (.access off.toNat x)))) ∧
  (∀ (s : State) (t : Nat) (off : Half) (v : Word64) (c : Chan) (tables : PerChan Table),
      s.OpenAt t (.regWr off v) .start tables → s.BusReady → s.resetAsserted = true →
    (off.toNat = s.cfg.off (.ctrl c) ∨ off.toNat = s.cfg.off (.status c)) →
      exec (.regWr off v) s = .next (s.faultBy t .regAccess (.access off.toNat (v.setWidth 16)))) ∧
  (∀ (s : State) (c : Chan), s.turn = .dma c → s.resetAsserted = true → agentStep s = .next s)

/-- R104: the fabric's response to a write of CTRLc, in each of its cases. -/
def Obligations.CtrlWrite : Prop :=
  ∀ (s : State) (t : Nat) (off : Half) (v : Word64) (c : Chan) (tables : PerChan Table),
      s.OpenAt t (.regWr off v) .start tables → s.BusReady → off.toNat = s.cfg.off (.ctrl c) →
    let x : Half := v.setWidth 16
    let full := (s.descQ.get c).length = s.cfg.queueDepth.get c
    (s.resetAsserted = true → exec (.regWr off v) s = .next (s.faultBy t .regAccess (.access off.toNat x))) ∧
    (s.resetAsserted = false →
      (c.dir = .mm2s → s.mm2sStart.get c = none → exec (.regWr off v) s =
        .next ({ s with mm2sStart := s.mm2sStart.set c (some x) }.completes t 0x00 (s.thread t).rv0 (s.thread t).rv1)) ∧
      (∀ first, c.dir = .mm2s → s.mm2sStart.get c = some first →
        (full → exec (.regWr off v) s = .next (s.faultBy t .dmaQueueOverflow (.chan c))) ∧
        (¬ full → exec (.regWr off v) s =
          .next ({ s with
            mm2sStart := s.mm2sStart.set c none
            descQ := s.descQ.set c (s.descQ.get c ++ [Desc.mm2s first x]) }.completes t 0x00
              (s.thread t).rv0 (s.thread t).rv1))) ∧
      (c.dir = .s2mm →
        (full → exec (.regWr off v) s = .next (s.faultBy t .dmaQueueOverflow (.chan c))) ∧
        (¬ full → exec (.regWr off v) s =
          .next ({ s with descQ := s.descQ.set c (s.descQ.get c ++ [Desc.s2mm x]) }.completes t 0x00
            (s.thread t).rv0 (s.thread t).rv1))))

/-- R109: the fabric's response to a write of STATUSc. With an empty queue the write has no effect, since the tail of an
empty list is empty. -/
def Obligations.StatusWrite : Prop :=
  ∀ (s : State) (t : Nat) (off : Half) (v : Word64) (c : Chan) (tables : PerChan Table),
      s.OpenAt t (.regWr off v) .start tables → s.BusReady → off.toNat = s.cfg.off (.status c) →
    let x : Half := v.setWidth 16
    (s.resetAsserted = true ∨ x ≠ 0 → exec (.regWr off v) s = .next (s.faultBy t .regAccess (.access off.toNat x))) ∧
    (s.resetAsserted = false → x = 0 →
      (∀ n rest, s.cmplQ.get c = n :: rest → exec (.regWr off v) s =
        .next ({ s with cmplQ := s.cmplQ.set c rest }.completes t 0x00 (s.thread t).rv0 (s.thread t).rv1)) ∧
      (s.cmplQ.get c = [] → exec (.regWr off v) s =
        .next (s.completes t 0x00 (s.thread t).rv0 (s.thread t).rv1)))

/-- R115: the response to a write of TIME_CTRL. The fourth clause is the commit of incompletely written fields, after which
the counter is free. The last says that one write makes at most one active edge. -/
def Obligations.TimeCtrlWrite : Prop :=
  ∀ (s : State) (t : Nat) (off : Half) (v : Word64) (tables : PerChan Table),
      s.OpenAt t (.regWr off v) .start tables → s.BusReady → off.toNat = s.cfg.off .timeCtrl →
    let x : Half := v.setWidth 16
    let latchIn := s.Edge x s.cfg.latchIn
    let latchOut := s.Edge x s.cfg.latchOut
    let done (u : State) : Result := .next ({ u with tc := x }.completes t 0x00 (s.thread t).rv0 (s.thread t).rv1)
    (s.BadTimeCtrl x → exec (.regWr off v) s = .next (s.faultBy t .regAccess (.access off.toNat x))) ∧
    (¬ s.BadTimeCtrl x →
      (¬ latchIn → ¬ latchOut → exec (.regWr off v) s = done s) ∧
      (latchIn → ¬ latchOut → exec (.regWr off v) s = done { s with
        snap := ⟨some (s.counter.extractLsb' 0 16), some (s.counter.extractLsb' 16 16),
          some (s.counter.extractLsb' 32 16), some (s.counter.extractLsb' 48 16)⟩
        wr := .all none }) ∧
      (¬ latchIn → latchOut →
        (∀ w0 w1 w2 w3, s.wr = ⟨some w0, some w1, some w2, some w3⟩ →
          exec (.regWr off v) s = done { s with counter := w3 ++ w2 ++ w1 ++ w0 }) ∧
        ((∃ k, s.wr.get k = none) →
          (∃ u n, s.DrawsOnly u ∧ exec (.regWr off v) s = done { u with counter := n }) ∧
          ∀ n rest, exec (.regWr off v) { s with answers := n :: rest } =
            done { s with answers := rest, counter := n })) ∧
      (s.tc &&& (s.cfg.latchIn ||| s.cfg.latchOut) ≠ s.cfg.latchIn ||| s.cfg.latchOut → ¬ (latchIn ∧ latchOut)))

/-- R66: where the fabric does not respond, a thread that reaches a bus step stays there for ever and is never final, and no
DMA engine has a step. (A thread that has no step is scheduled without effect, assumption 4. That a thread before an odd,
unmapped or out-of-range access stays too, and raises no fault, is the model's reading, assumption 13.) -/
def Obligations.DeadBusHangs : Prop :=
  ∀ (s : State), s.cfg.fabricResponds = false →
    (∀ t i p, s.At t i p → Running.onBus ⟨i, p⟩ = true → (i.isLifecycle = true ∨ s.IsOpen) →
      exec i s = .next s ∧ s.final = false) ∧
    (∀ c, s.turn = .dma c → agentStep s = .next s)

/-- R75, with R72 and R47: MEM_RD8 of a byte that the thread may access returns the byte, or any value where the byte was
never written, which stays unwritten. -/
def Obligations.MemoryByteRead : Prop :=
  ∀ w a, EntryFaults (.memRd8 w a) ∧
    ∀ (s : State) (t : Nat) (tables : PerChan Table), s.OpenAt t (.memRd8 w a) .start tables →
        s.cfg.fabricResponds = true →
      s.MayAccess tables t w a.toNat →
      (∀ x, s.byteAt w a.toNat = some x →
        exec (.memRd8 w a) s = .next (s.completes t 0x00 (some (x.setWidth 64)) (s.thread t).rv1)) ∧
      (s.byteAt w a.toNat = none →
        (∃ x u, s.DrawsOnly u ∧
          exec (.memRd8 w a) s = .next (u.completes t 0x00 (some (BitVec.setWidth 64 (x : Byte))) (s.thread t).rv1)) ∧
        ∀ (x : Byte) rest, exec (.memRd8 w a) { s with answers := x.setWidth 64 :: rest } =
          .next ({ s with answers := rest }.completes t 0x00 (some (x.setWidth 64)) (s.thread t).rv1))

/-- R76, with R72: MEM_WR8 of a byte that the thread may access stores it; every other byte of every window reads as
before, and the result values are kept. -/
def Obligations.MemoryByteWrite : Prop :=
  ∀ w a b, EntryFaults (.memWr8 w a b) ∧
    ∀ (s : State) (t : Nat) (tables : PerChan Table), s.OpenAt t (.memWr8 w a b) .start tables →
        s.cfg.fabricResponds = true →
      s.MayAccess tables t w a.toNat →
      ∃ m, exec (.memWr8 w a b) s = .next ({ s with mem := m }.completes t 0x00 (s.thread t).rv0 (s.thread t).rv1) ∧
        { s with mem := m }.byteAt w a.toNat = some b ∧
        ∀ w' a', (w', a') ≠ (w, a.toNat) → { s with mem := m }.byteAt w' a' = s.byteAt w' a'

/-- R44: the check of a host frame-memory access, in its order, for MEM_RD8 and MEM_WR8; and an access that passes it
completes. -/
def Obligations.FrameAccessChecks : Prop :=
  ∀ (s : State) (t : Nat) (i : Instr) (w : Window) (a : Word64) (tables : PerChan Table),
      (i = .memRd8 w a ∨ ∃ b, i = .memWr8 w a b) → s.OpenAt t i .start tables →
    s.cfg.fabricResponds = true → s.cfg.wf = true →
    let outside := (w ≠ .framer ∧ w ≠ .deframer) ∨ s.mapped.has w = false ∨ s.cfg.winBytes w ≤ a.toNat
    (outside → exec i s = .next (s.faultBy t .memRange (.memory w a.toNat))) ∧
    (¬ outside → ∀ c, c.win = w → s.cfg.base.get c ≤ a.toNat → a.toNat < s.cfg.regionEnd c →
      let h := (a.toNat - s.cfg.base.get c) / s.cfg.frameBytes.get c
      ((tables.get c).slots[h]? ≠ some .inFlight →
        exec i s = .next (s.faultBy t .frameOwnership (.frame c h a.toNat))) ∧
      ((tables.get c).slots[h]? = some .inFlight → t ≠ s.cfg.owner.get c →
        exec i s = .next (s.faultBy t .channelOwner (.owner c t)))) ∧
    (s.MayAccess tables t w a.toNat → ∃ s', exec i s = .next s' ∧ s'.faults = s.faults ∧ (s'.thread t).running = none)

/-! ## Invariants of every step -/

/-- R27: the memory of every window keeps its canonical form. -/
def Obligations.MemoryKeepsItsForm : Prop := ∀ (s s' : State), s.MemoryInv → step s = .next s' → s'.MemoryInv

/-- R88: INV1 to INV5 of every table are kept by every step. They hold after ConstructTables in every configuration the
model accepts. -/
def Obligations.TablesKeepTheirInvariant : Prop :=
  (∀ (s s' : State), s.TablesInv → step s = .next s' → s'.TablesInv) ∧
  (∀ cfg : Config, cfg.wf = true → ∀ c,
    ((Config.freshTables cfg).get c).Inv (cfg.capacity.get c) (cfg.frameBytes.get c))

/-- R25, R104 (that the state which belongs to one direction exists for the other, unused, is the model's form, assumption
18): no descriptor queue is over its depth, every descriptor has the form of its channel's direction, and the
state of the other direction is unused. -/
def Obligations.QueuesKeepTheirForm : Prop := ∀ (s s' : State), s.QueuesInv → step s = .next s' → s'.QueuesInv

/-- R20, R8: every command in progress is at a program point of its own; and in every such state without a fault, in a
configuration the model accepts, the machine has a next state: no command is refused. The model accepts exactly the
configurations that R8 calls well-formed, with the parameters in the ranges of R7 and one record for each of the T threads
(assumption 15), and its step refuses every other. -/
def Obligations.PointsAreOwnAndStepsAnswer : Prop :=
  (∀ (s s' : State), s.PointsInv → step s = .next s' → s'.PointsInv) ∧
  (∀ (s : State), s.PointsInv → s.faults = [] → s.configOk = true → ∃ s', step s = .next s') ∧
  (∀ (s : State),
    let g := s.cfg
    let wellFormed :=
      (∀ c, g.base.get c + g.capacity.get c * g.frameBytes.get c ≤ g.winBytes c.win) ∧
      (∀ c d, c ≠ d → c.win = d.win → ∀ a,
        ¬ ((g.base.get c ≤ a ∧ a < g.base.get c + g.capacity.get c * g.frameBytes.get c) ∧
          (g.base.get d ≤ a ∧ a < g.base.get d + g.capacity.get d * g.frameBytes.get d))) ∧
      (∀ c, g.base.get c + g.capacity.get c * g.frameBytes.get c ≤ 65535) ∧
      (∀ r, g.off r % 2 = 0 ∧ g.off r < g.regWinBytes ∧ ∀ q, g.off r = g.off q → r = q) ∧
      (∀ c d, g.readyBit.get c = g.readyBit.get d → c = d) ∧ g.tcInBit ≠ g.tcOutBit ∧
      (∀ c, g.owner.get c < g.threads) ∧ (∀ c, g.capacity.get c ≤ g.queueDepth.get c)
    let ranges :=
      (∀ c, 1 ≤ g.capacity.get c ∧ g.capacity.get c ≤ 65535 ∧ 1 ≤ g.frameBytes.get c ∧ g.frameBytes.get c ≤ 65535 ∧
        g.readyBit.get c ≤ 15) ∧
      g.tcInBit ≤ 15 ∧ g.tcOutBit ≤ 15 ∧ 1 ≤ g.clockRateHz ∧ 1 ≤ g.threads ∧ g.regWinBytes ≤ 65536
    (s.configOk = true ↔ wellFormed ∧ ranges ∧ s.threads.length = g.threads) ∧
    (¬ (wellFormed ∧ ranges ∧ s.threads.length = g.threads) → s.faults = [] → step s = .refused .illFormedConfig))

/-- R55: only its owner is ever in a command of a channel, so no two threads run commands of one channel. -/
def Obligations.OnlyOwnersRunChannelCommands : Prop :=
  (∀ (s s' : State), s.OwnersInv → step s = .next s' → s'.OwnersInv) ∧
  (∀ (s : State) (t t' : Nat) (i i' : Instr) (p p' : Point) (c : Chan), s.OwnersInv →
      (s.thread t).running = some ⟨i, p⟩ → (s.thread t').running = some ⟨i', p'⟩ →
    i.ownedChan = some c → i'.ownedChan = some c → t = t')

/-- R22, R77 to R85, R143: only thread 0 is in OPEN or CLOSE; `dev` is OPENING exactly while OPEN runs; the mapped windows
and the energised bus are those of the phase of the lifecycle. -/
def Obligations.LifecycleInvariant : Prop := ∀ (s s' : State), s.LifecycleInv → step s = .next s' → s'.LifecycleInv

/-- R139, R150: from OPEN's reset pulse to the end of OPEN the fabric queues are empty, and an OPEN that ends with `dev`
OPEN leaves them empty, whatever was left over from before. -/
def Obligations.QueuesStayEmptyAfterResetPulse : Prop :=
  (∀ (s s' : State), s.LifecycleInv → s.QuietOpenInv → step s = .next s' → s'.QuietOpenInv) ∧
  (∀ (s s' : State), s.LifecycleInv → s.QuietOpenInv → step s = .next s' → s.dev = .opening → s'.IsOpen →
    s'.descQ = .all [] ∧ s'.cmplQ = .all [] ∧ s'.mm2sStart = .all none)

/-- R108, for each channel. While no thread runs a command that breaks it (R148: a raw write of its CTRLc or STATUSc or of 1
to RESET, or a raw mark of its table), every step from an OPEN device keeps the correspondence of table and fabric queues;
the step that opens the device establishes it, since every command that an earlier CLOSE found part-way is cut off (R122;
assumption 20); and where no CH_RELEASE or drain of the channel is part-way it is R108's own words. So those hold in every
state with `dev` OPEN that a run from power-on reaches, under every schedule and every answer of the draws, where no command
stream holds a breaking command. -/
def Obligations.TablesCorrespondToQueues : Prop :=
  (∀ (s s' : State) (c : Chan), s.IsOpen → s.LifecycleInv → s.OwnersInv → s.PointsInv → s.TablesInv →
    s.NoBreakingCommand c → s.CorrespondenceInv c → step s = .next s' → s'.CorrespondenceInv c) ∧
  (∀ (s s' : State) (c : Chan), s.dev = .opening → s.LifecycleInv → s.QuietOpenInv → s.CutOffInv → step s = .next s' →
    s'.CorrespondenceInv c) ∧
  (∀ (s : State) (c : Chan) (table : Table), s.Corresponds c table → s.NotPartWay c → s.InStep c table) ∧
  (∀ (cfg : Config) (streams : List (List CmdWord)) (first : Agent) (sched : List Agent) (answers : List Word64) (c : Chan)
      (s : State) (tables : PerChan Table),
    (∀ stream ∈ streams, ∀ w ∈ stream, ∀ i, decode w = .ok i → i.breaks cfg c = false) →
    Reaches { State.powerOn cfg streams with turn := first, sched := sched, answers := answers } s →
    s.dev = .opened tables → s.NotPartWay c → s.InStep c (tables.get c))

/-- Every invariant above holds at power-on, under every accepted configuration and every program (a sanity statement). -/
def Obligations.InvariantsHoldAtPowerOn : Prop :=
  ∀ cfg streams, let s := State.powerOn cfg streams
    s.MemoryInv ∧ s.TablesInv ∧ s.QueuesInv ∧ s.PointsInv ∧ s.OwnersInv ∧ s.LifecycleInv ∧ s.QuietOpenInv ∧ s.CutOffInv ∧
    ∀ c, s.CorrespondenceInv c ∧ s.NoBreakingCommand c

/-! ## The ring table (42) -/

/-- R93, R97, R98, R99: the table commands that only report. TBL_OFFSET and TBL_BUFF fault for h ≥ N[c] and do not look at
the slot. -/
def Obligations.TableQueries : Prop :=
  ∀ (s : State) (t : Nat) (c : Chan) (tables : PerChan Table),
    EntryFaults (.tblNumAvail c) ∧ EntryFaults (.tblBpf c) ∧
    (∀ h, EntryFaults (.tblOffset c h) ∧ EntryFaults (.tblBuff c h)) ∧
    (s.OpenAt t (.tblNumAvail c) .start tables → exec (.tblNumAvail c) s =
      .next (s.completes t 0x00 (some (BitVec.ofNat 64 (tables.get c).avail)) (s.thread t).rv1)) ∧
    (s.OpenAt t (.tblBpf c) .start tables → exec (.tblBpf c) s =
      .next (s.completes t 0x00 (some (BitVec.ofNat 64 (s.cfg.frameBytes.get c))) (s.thread t).rv1)) ∧
    (∀ h : Half, s.OpenAt t (.tblOffset c h) .start tables →
      (s.cfg.capacity.get c ≤ h.toNat →
        exec (.tblOffset c h) s = .next (s.faultBy t .invalidHandle (.handle c h.toNat))) ∧
      (h.toNat < s.cfg.capacity.get c → exec (.tblOffset c h) s = .next (s.completes t 0x00
        (some (BitVec.ofNat 64 (s.cfg.base.get c + h.toNat * s.cfg.frameBytes.get c))) (s.thread t).rv1))) ∧
    (∀ h : Half, s.OpenAt t (.tblBuff c h) .start tables →
      (s.cfg.capacity.get c ≤ h.toNat →
        exec (.tblBuff c h) s = .next (s.faultBy t .invalidHandle (.handle c h.toNat))) ∧
      (h.toNat < s.cfg.capacity.get c → exec (.tblBuff c h) s = .next (s.completes t 0x00
        (some (if c.win = .framer then 0 else 1))
        (some (BitVec.ofNat 64 (s.cfg.base.get c + h.toNat * s.cfg.frameBytes.get c))))))

/-- R94, R90: TBL_ACQ_HEAD claims the head slot, or reports NONE_AVAILABLE and changes nothing. -/
def Obligations.AcquireHeadCommand : Prop :=
  ∀ c, EntryFaults (.tblAcqHead c) ∧
    ∀ (s : State) (t : Nat) (tables : PerChan Table), s.OpenAt t (.tblAcqHead c) .start tables →
      let table := tables.get c
      (table.avail = 0 → exec (.tblAcqHead c) s =
        .next (s.completes t 0x01 (some 0xFFFFFFFFFFFFFFFF) (some 0))) ∧
      (0 < table.avail → ∀ len, table.lens[table.head]? = some len → exec (.tblAcqHead c) s =
        .next ((s.withTable tables c (table.afterAcquire (s.cfg.capacity.get c))).completes t 0x00
          (some (BitVec.ofNat 64 table.head)) (some (BitVec.ofNat 64 len))))

/-- R95, R91: TBL_MARK_REL makes the oldest IN_FLIGHT slot PENDING, with its three checks in order. -/
def Obligations.MarkReleasedCommand : Prop :=
  ∀ c h, EntryFaults (.tblMarkRel c h) ∧
    ∀ (s : State) (t : Nat) (tables : PerChan Table), s.OpenAt t (.tblMarkRel c h) .start tables →
      let table := tables.get c
      let n := s.cfg.capacity.get c
      let first := (table.tail + table.slots.count .pending) % n
      (n ≤ h.toNat ∨ table.slots[h.toNat]? ≠ some .inFlight →
        exec (.tblMarkRel c h) s = .next (s.faultBy t .invalidHandle (.handle c h.toNat))) ∧
      (h.toNat < n → table.slots[h.toNat]? = some .inFlight → h.toNat ≠ first →
        exec (.tblMarkRel c h) s = .next (s.faultBy t .releaseOrder (.order c h.toNat first))) ∧
      (h.toNat < n → table.slots[h.toNat]? = some .inFlight → h.toNat = first →
        exec (.tblMarkRel c h) s = .next ((s.withTable tables c (table.afterRelease h.toNat)).completes t 0x00
          (s.thread t).rv0 (s.thread t).rv1))

/-- R96, R92: TBL_MARK_TAIL frees the PENDING tail slot and records its length, with its three checks in order. -/
def Obligations.MarkTailCommand : Prop :=
  ∀ c bytes, EntryFaults (.tblMarkTail c bytes) ∧
    ∀ (s : State) (t : Nat) (tables : PerChan Table), s.OpenAt t (.tblMarkTail c bytes) .start tables →
      let table := tables.get c
      let n := s.cfg.capacity.get c
      (table.avail = n → exec (.tblMarkTail c bytes) s = .next (s.faultBy t .tableOverflow (.chan c))) ∧
      (table.avail ≠ n → ∀ st, table.slots[table.tail]? = some st →
        (st ≠ .pending →
          exec (.tblMarkTail c bytes) s = .next (s.faultBy t .completionOrder (.completion c table.tail st))) ∧
        (st = .pending → s.cfg.frameBytes.get c < bytes.toNat →
          exec (.tblMarkTail c bytes) s = .next (s.faultBy t .lengthRange (.length c bytes.toNat))) ∧
        (st = .pending → bytes.toNat ≤ s.cfg.frameBytes.get c →
          exec (.tblMarkTail c bytes) s = .next ((s.withTable tables c (table.afterMark n bytes.toNat)).completes t 0x00
            (some (BitVec.ofNat 64 (table.avail + 1))) (s.thread t).rv1)))

/-- R86, R89: in one step a table stays as it is, or its head slot goes from FREE to IN_FLIGHT in an acquire, or a slot from
IN_FLIGHT to PENDING in a release, or its tail slot from PENDING to FREE in a completion mark. The head moves only in the
first and the tail only in the last, each by one. -/
def Obligations.SlotsAndCursorsMoveInOrder : Prop :=
  ∀ (s s' : State) (tables tables' : PerChan Table) (c : Chan), s.LifecycleInv → s.TablesInv → step s = .next s' →
      s.dev = .opened tables →
    s'.dev = .opened tables' →
    let a := tables.get c
    let b := tables'.get c
    let n := s.cfg.capacity.get c
    let inCommand (P : Instr → Prop) := ∃ t i p, s.turn = .host t ∧ (s.thread t).running = some ⟨i, p⟩ ∧ P i
    b = a ∨
    (inCommand (fun i => i = .tblAcqHead c ∨ i = .chTryAcquire c ∨ ∃ us, i = .chAcquire c us) ∧
      0 < a.avail ∧ a.slots[a.head]? = some .free ∧ b = a.afterAcquire n) ∨
    (∃ h : Half, inCommand (fun i => i = .tblMarkRel c h ∨ ∃ len, i = .chRelease c h len) ∧
      a.slots[h.toNat]? = some .inFlight ∧ b = a.afterRelease h.toNat) ∨
    (∃ bytes, inCommand (fun i => DrainsChannel i c ∨ ∃ v, i = .tblMarkTail c v) ∧
      bytes ≤ s.cfg.frameBytes.get c ∧ a.slots[a.tail]? = some .pending ∧ b = a.afterMark n bytes)

/-! ## The poller (44) -/

/-- R110: each step of DrainChannel(c) in POLL_DRAIN, CH_TRY_ACQUIRE and CH_ACQUIRE, but for the READY read that sees no
completion, which ends it. -/
def Obligations.DrainSteps : Prop :=
  ∀ (s : State) (t : Nat) (i : Instr) (c : Chan) (n : Nat) (tables : PerChan Table), DrainsChannel i c → s.BusReady →
    let table := tables.get c
    let frame := s.cfg.frameBytes.get c
    (s.DrainAt t i n tables → s.cmplQ.get c ≠ [] → ∃ u, s.DrawsOnly u ∧
      (c.dir = .mm2s → exec i s = .next (u.putAt t i (.drain (.mark n frame)))) ∧
      (c.dir = .s2mm → exec i s = .next (u.putAt t i (.drain (.status n))))) ∧
    (s.OpenAt t i (.drain (.status n)) tables →
      (∀ x rest, s.cmplQ.get c = x :: rest → exec i s = .next (s.putAt t i (.drain (.mark n x.toNat)))) ∧
      (s.cmplQ.get c = [] → ∃ u x, s.DrawsOnly u ∧
        exec i s = .next (u.putAt t i (.drain (.mark n (BitVec.toNat (x : Half))))))) ∧
    (∀ amount, s.OpenAt t i (.drain (.mark n amount)) tables →
      (table.avail = s.cfg.capacity.get c → exec i s = .next (s.faultBy t .tableOverflow (.chan c))) ∧
      (table.avail ≠ s.cfg.capacity.get c → ∀ st, table.slots[table.tail]? = some st →
        (st ≠ .pending → exec i s = .next (s.faultBy t .completionOrder (.completion c table.tail st))) ∧
        (st = .pending → frame < amount → exec i s = .next (s.faultBy t .lengthRange (.length c amount))) ∧
        (st = .pending → amount ≤ frame → exec i s = .next
          ((s.withTable tables c (table.afterMark (s.cfg.capacity.get c) amount)).putAt t i (.drain (.ack n)))))) ∧
    (s.OpenAt t i (.drain (.ack n)) tables →
      (s.resetAsserted = true →
        exec i s = .next (s.faultBy t .regAccess (.access (s.cfg.off (.status c)) 0))) ∧
      (s.resetAsserted = false → exec i s =
        .next ({ s with cmplQ := s.cmplQ.set c (s.cmplQ.get c).tail }.putAt t i (.drain (.ready (n + 1))))))

/-- R112, R111: POLL_DRAIN whose READY read sees no completion ends in that step with the count of completions retired and
the available count, and no table change. -/
def Obligations.DrainEnds : Prop :=
  ∀ c, EntryFaults (.pollDrain c) ∧
    ∀ (s : State) (t n : Nat) (tables : PerChan Table), s.DrainAt t (.pollDrain c) n tables → s.BusReady →
        s.cmplQ.get c = [] →
      ∃ u, s.DrawsOnly u ∧ exec (.pollDrain c) s = .next (u.completes t 0x00
        (some (BitVec.ofNat 64 n)) (some (BitVec.ofNat 64 (tables.get c).avail)))

/-- R110 to R112, whole: with no other agent's step in between, POLL_DRAIN retires every queued completion, of however many
there are. It frees that many slots from the tail, oldest first, records the frame size (MM2S) or the reported counts (S2MM)
as their lengths, leaves every other slot, the queue empty, and reports both counts. The counts of steps, 3k + 1 and 4k + 1,
are the model's own (assumption 1). -/
def Obligations.DrainRetiresEveryCompletion : Prop :=
  ∀ (s : State) (t : Nat) (c : Chan) (tables : PerChan Table), s.OpenAt t (.pollDrain c) .start tables → s.BusReady →
      s.resetAsserted = false →
    let table := tables.get c
    let n := s.cfg.capacity.get c
    let frame := s.cfg.frameBytes.get c
    let k := (s.cmplQ.get c).length
    table.Inv n frame → k ≤ table.pendingCount →
    (c.dir = .s2mm → ∀ x ∈ s.cmplQ.get c, x.toNat ≤ frame) →
    ∃ u table', s.DrawsOnly u ∧
      execN (.pollDrain c) ((if c.dir = .mm2s then 3 else 4) * k + 1) s =
        .next (({ u with cmplQ := s.cmplQ.set c [] }.withTable tables c table').completes t 0x00
          (some (BitVec.ofNat 64 k)) (some (BitVec.ofNat 64 (table.avail + k)))) ∧
      table'.Inv n frame ∧ table'.head = table.head ∧ table'.tail = (table.tail + k) % n ∧
      table'.avail = table.avail + k ∧ table'.pendingCount + k = table.pendingCount ∧
      (∀ j < k, table'.slots[(table.tail + j) % n]? = some .free ∧
        table'.lens[(table.tail + j) % n]? =
          (if c.dir = .mm2s then some frame else (s.cmplQ.get c)[j]?.map BitVec.toNat)) ∧
      (∀ h, (∀ j < k, h ≠ (table.tail + j) % n) →
        table'.slots[h]? = table.slots[h]? ∧ table'.lens[h]? = table.lens[h]?)

/-! ## The channel controller (43) -/

/-- R101: CH_TRY_ACQUIRE at the READY read that ends its drain: it claims the head slot, or reports NONE_AVAILABLE. -/
def Obligations.TryAcquireCommand : Prop :=
  ∀ c, EntryFaults (.chTryAcquire c) ∧
    ∀ (s : State) (t n : Nat) (tables : PerChan Table), s.DrainAt t (.chTryAcquire c) n tables → s.BusReady →
        s.cmplQ.get c = [] →
      let table := tables.get c
      ∃ u, s.DrawsOnly u ∧
        (table.avail = 0 → exec (.chTryAcquire c) s =
          .next (u.completes t 0x01 (some 0xFFFFFFFFFFFFFFFF) (some 0))) ∧
        (0 < table.avail → ∀ len, table.lens[table.head]? = some len → exec (.chTryAcquire c) s =
          .next ((u.withTable tables c (table.afterAcquire (s.cfg.capacity.get c))).completes t 0x00
            (some (BitVec.ofNat 64 table.head)) (some (BitVec.ofNat 64 len))))

/-- R100: CH_ACQUIRE at the READY read that ends its drain: it claims the head slot; or times out at once for a timeout of
0; or, for any other, times out or waits as the deadline draw says, both being admitted. After `wait` it drains again. -/
def Obligations.AcquireCommand : Prop :=
  ∀ c us, EntryFaults (.chAcquire c us) ∧
    (∀ (s : State) (t n : Nat) (tables : PerChan Table), s.DrainAt t (.chAcquire c us) n tables → s.BusReady →
        s.cmplQ.get c = [] →
      let table := tables.get c
      (0 < table.avail → ∀ len, table.lens[table.head]? = some len → ∃ u, s.DrawsOnly u ∧ exec (.chAcquire c us) s =
        .next ((u.withTable tables c (table.afterAcquire (s.cfg.capacity.get c))).completes t 0x00
          (some (BitVec.ofNat 64 table.head)) (some (BitVec.ofNat 64 len)))) ∧
      (table.avail = 0 → us = 0 → ∃ u, s.DrawsOnly u ∧ exec (.chAcquire c us) s =
        .next (u.completes t 0x02 (some 0xFFFFFFFFFFFFFFFF) (some 0))) ∧
      (table.avail = 0 → us ≠ 0 →
        (∃ u, s.DrawsOnly u ∧
          (exec (.chAcquire c us) s = .next (u.completes t 0x02 (some 0xFFFFFFFFFFFFFFFF) (some 0)) ∨
            exec (.chAcquire c us) s = .next (u.putAt t (.chAcquire c us) .wait))) ∧
        ∀ r b rest,
          (b.getLsbD 0 = true → exec (.chAcquire c us) { s with answers := r :: b :: rest } =
            .next ({ s with answers := rest }.completes t 0x02 (some 0xFFFFFFFFFFFFFFFF) (some 0))) ∧
          (b.getLsbD 0 = false → exec (.chAcquire c us) { s with answers := r :: b :: rest } =
            .next ({ s with answers := rest }.putAt t (.chAcquire c us) .wait)))) ∧
    (∀ (s : State) (t : Nat) (tables : PerChan Table), s.OpenAt t (.chAcquire c us) .wait tables →
      exec (.chAcquire c us) s = .next (s.putAt t (.chAcquire c us) (.drain (.ready 0))))

/-- R102, with R104. First, CH_RELEASE of the oldest IN_FLIGHT slot, with the fabric ready to take a descriptor and no other
agent's step in between: the slot becomes PENDING first; then the offset is programmed, and on an MM2S channel the exclusive
end offset. Second, each of its CTRLc writes alone, in each case of the pairing: where a raw write has left a start offset
(R148), the first write of a later MM2S release completes that descriptor and the second leaves its own value as a start. -/
def Obligations.ReleaseCommand : Prop :=
  (∀ s t c (h : Half) (len : Word64) tables, s.OpenAt t (.chRelease c h len) .start tables → s.BusReady →
    s.resetAsserted = false → h.toNat < s.cfg.capacity.get c → (tables.get c).slots[h.toNat]? = some .inFlight →
    h.toNat = ((tables.get c).tail + (tables.get c).slots.count .pending) % s.cfg.capacity.get c →
    s.mm2sStart.get c = none → (s.descQ.get c).length < s.cfg.queueDepth.get c →
    let i : Instr := .chRelease c h len
    let off := s.cfg.base.get c + h.toNat * s.cfg.frameBytes.get c
    let released := s.withTable tables c ((tables.get c).afterRelease h.toNat)
    let queued (d : Desc) : State := { released with descQ := s.descQ.set c (s.descQ.get c ++ [d]) }
    (c.dir = .s2mm →
      exec i s = .next (released.putAt t i .relStart) ∧
      exec i (released.putAt t i .relStart) =
        .next ((queued (.s2mm (BitVec.ofNat 16 off))).completes t 0x00 (s.thread t).rv0 (s.thread t).rv1)) ∧
    (c.dir = .mm2s → len.toNat ≤ s.cfg.frameBytes.get c →
      let half : State := { released with mm2sStart := s.mm2sStart.set c (some (BitVec.ofNat 16 off)) }
      exec i s = .next (released.putAt t i .relStart) ∧
      exec i (released.putAt t i .relStart) = .next (half.putAt t i .relEnd) ∧
      exec i (half.putAt t i .relEnd) =
        .next ((queued (.mm2s (BitVec.ofNat 16 off) (BitVec.ofNat 16 (off + len.toNat)))).completes t 0x00
          (s.thread t).rv0 (s.thread t).rv1))) ∧
  (∀ (s : State) (t : Nat) (c : Chan) (h : Half) (len : Word64) (tables : PerChan Table), s.BusReady →
    s.resetAsserted = false →
    let i : Instr := .chRelease c h len
    let off := s.cfg.base.get c + h.toNat * s.cfg.frameBytes.get c
    let room := (s.descQ.get c).length ≠ s.cfg.queueDepth.get c
    let stored (v : Half) : State := { s with mm2sStart := s.mm2sStart.set c (some v) }
    let paired (f v : Half) : State := { s with
      mm2sStart := s.mm2sStart.set c none, descQ := s.descQ.set c (s.descQ.get c ++ [Desc.mm2s f v]) }
    let done (u : State) : Result := .next (u.completes t 0x00 (s.thread t).rv0 (s.thread t).rv1)
    (s.OpenAt t i .relStart tables →
      (c.dir = .mm2s → s.mm2sStart.get c = none → exec i s = .next ((stored (BitVec.ofNat 16 off)).putAt t i .relEnd)) ∧
      (∀ f, c.dir = .mm2s → s.mm2sStart.get c = some f → room →
        exec i s = .next ((paired f (BitVec.ofNat 16 off)).putAt t i .relEnd)) ∧
      (c.dir = .s2mm → room →
        exec i s = done { s with descQ := s.descQ.set c (s.descQ.get c ++ [Desc.s2mm (BitVec.ofNat 16 off)]) })) ∧
    (s.OpenAt t i .relEnd tables → c.dir = .mm2s →
      (s.mm2sStart.get c = none → exec i s = done (stored (BitVec.ofNat 16 (off + len.toNat)))) ∧
      (∀ f, s.mm2sStart.get c = some f → room → exec i s = done (paired f (BitVec.ofNat 16 (off + len.toNat))))))

/-- R102, R127: the faults of CH_RELEASE, in their order. Those of its first step leave the table as it was; those of a
CTRLc write, which only raw register writes can bring about, leave the slot PENDING and an earlier write in effect, since
they change nothing of the state in which they are raised. -/
def Obligations.ReleaseFaults : Prop :=
  ∀ s t c (h : Half) (len : Word64) tables,
    let i : Instr := .chRelease c h len
    let n := s.cfg.capacity.get c
    let table := tables.get c
    let first := (table.tail + table.slots.count .pending) % n
    let off := s.cfg.base.get c + h.toNat * s.cfg.frameBytes.get c
    let full := (s.descQ.get c).length = s.cfg.queueDepth.get c
    EntryFaults i ∧
    (s.OpenAt t i .start tables →
      (n ≤ h.toNat ∨ table.slots[h.toNat]? ≠ some .inFlight →
        exec i s = .next (s.faultBy t .invalidHandle (.handle c h.toNat))) ∧
      (h.toNat < n → table.slots[h.toNat]? = some .inFlight →
        (h.toNat ≠ first → exec i s = .next (s.faultBy t .releaseOrder (.order c h.toNat first))) ∧
        (h.toNat = first → c.dir = .mm2s → s.cfg.frameBytes.get c < len.toNat →
          exec i s = .next (s.faultBy t .lengthRange (.length c len.toNat))))) ∧
    (s.OpenAt t i .relStart tables → s.BusReady →
      (s.resetAsserted = true →
        exec i s = .next (s.faultBy t .regAccess (.access (s.cfg.off (.ctrl c)) (BitVec.ofNat 16 off)))) ∧
      (s.resetAsserted = false → full → (c.dir = .s2mm ∨ s.mm2sStart.get c ≠ none) →
        exec i s = .next (s.faultBy t .dmaQueueOverflow (.chan c)))) ∧
    (s.OpenAt t i .relEnd tables → s.BusReady →
      (s.resetAsserted = true →
        exec i s = .next (s.faultBy t .regAccess (.access (s.cfg.off (.ctrl c)) (BitVec.ofNat 16 (off + len.toNat))))) ∧
      (s.resetAsserted = false → full → c.dir = .mm2s → s.mm2sStart.get c ≠ none →
        exec i s = .next (s.faultBy t .dmaQueueOverflow (.chan c))))

/-- R103: CH_BUFFER reports the window and offset of an IN_FLIGHT slot, and faults for any other handle. -/
def Obligations.BufferCommand : Prop :=
  ∀ c h, EntryFaults (.chBuffer c h) ∧
    ∀ (s : State) (t : Nat) (tables : PerChan Table), s.OpenAt t (.chBuffer c h) .start tables →
      (s.cfg.capacity.get c ≤ h.toNat ∨ (tables.get c).slots[h.toNat]? ≠ some .inFlight →
        exec (.chBuffer c h) s = .next (s.faultBy t .invalidHandle (.handle c h.toNat))) ∧
      (h.toNat < s.cfg.capacity.get c → (tables.get c).slots[h.toNat]? = some .inFlight →
        exec (.chBuffer c h) s = .next (s.completes t 0x00 (some (if c.win = .framer then 0 else 1))
          (some (BitVec.ofNat 64 (s.cfg.base.get c + h.toNat * s.cfg.frameBytes.get c)))))

/-! ## The fabric (41, 43) -/

/-- R106: one step of an MM2S engine. The bytes sent are those of the window, and any value for an unwritten one; the count
posted is free: whatever bytes and count agree with the window are sent and posted for some answers of the draws (the
answers are the model's form of a draw, assumptions 3 and 11). -/
def Obligations.DmaSendStep : Prop :=
  ∀ (s : State) (c : Chan) first last rest, s.turn = .dma c → s.cfg.fabricResponds = true → s.resetAsserted = false →
      c.dir = .mm2s →
    s.descQ.get c = .mm2s first last :: rest →
    let agrees (data : List Byte) : Prop := data.length = last.toNat - first.toNat ∧
      ∀ k x, k < data.length → s.byteAt c.win (first.toNat + k) = some x → data[k]? = some x
    let sent (u : State) (data : List Byte) (count : Half) : Result := .next { u with
      descQ := s.descQ.set c rest
      streamOut := s.streamOut.set c (s.streamOut.get c ++ [data])
      cmplQ := s.cmplQ.set c (s.cmplQ.get c ++ [count]) }
    (last.toNat < first.toNat ∨ s.cfg.winBytes c.win < last.toNat →
      agentStep s = .next (s.withFault .dmaRange (.dma c) none (.range c first.toNat last.toNat))) ∧
    (first.toNat ≤ last.toNat → last.toNat ≤ s.cfg.winBytes c.win →
      (∃ data count u, s.DrawsOnly u ∧ agrees data ∧ agentStep s = sent u data count) ∧
      ∀ data count, agrees data → ∃ draws, ∀ others,
        agentStep { s with answers := draws ++ others } = sent { s with answers := others } data count)

/-- R107: one step of an S2MM engine, for some count in [0, F[c]] and, by the draw, for any, with any data bytes: the count
and the bytes are what the draws answer (the answers are the model's form of a draw, assumptions 3 and 11). It stores the
bytes from the start offset on, and every other byte of every window reads as before. -/
def Obligations.DmaReceiveStep : Prop :=
  ∀ (s : State) (c : Chan) first rest, s.turn = .dma c → s.cfg.fabricResponds = true → s.resetAsserted = false →
      c.dir = .s2mm →
    s.descQ.get c = .s2mm first :: rest →
    let out (n : Nat) : Result := .next (s.withFault .dmaRange (.dma c) none (.range c first.toNat n))
    let stored (u : State) (m : Windows) (data : List Byte) : Prop :=
      agentStep s = .next { u with
        mem := m
        descQ := s.descQ.set c rest
        streamIn := s.streamIn.set c (s.streamIn.get c ++ [data])
        cmplQ := s.cmplQ.set c (s.cmplQ.get c ++ [BitVec.ofNat 16 data.length]) } ∧
      (∀ k < data.length, { s with mem := m }.byteAt c.win (first.toNat + k) = data[k]?) ∧
      ∀ w a, (w ≠ c.win ∨ a < first.toNat ∨ first.toNat + data.length ≤ a) → { s with mem := m }.byteAt w a = s.byteAt w a
    let outcome (n : Nat) : Prop :=
      (s.cfg.winBytes c.win < first.toNat + n → agentStep s = out n) ∧
      (first.toNat + n ≤ s.cfg.winBytes c.win → ∃ data m u, s.DrawsOnly u ∧ data.length = n ∧ stored u m data)
    (∃ n ≤ s.cfg.frameBytes.get c, outcome n) ∧
    (∀ n ≤ s.cfg.frameBytes.get c, (∃ others, s.answers = BitVec.ofNat 64 n :: others) → n < 2 ^ 64 → outcome n) ∧
    ∀ (data : List Byte) others, data.length ≤ s.cfg.frameBytes.get c → data.length < 2 ^ 64 →
      first.toNat + data.length ≤ s.cfg.winBytes c.win →
      s.answers = BitVec.ofNat 64 data.length :: data.map (BitVec.setWidth 64) ++ others →
      ∃ m, stored { s with answers := others } m data

/-- R80: Load, one step of the LOADER, taken while thread 0's OPEN waits for it; the counter after it is free. OPEN itself
has no step there, so that exec answers the same state (the model's form, assumptions 4 and 17). -/
def Obligations.LoadStep : Prop :=
  ∀ (s : State) hash seed, 0 < s.threads.length → (s.thread 0).running = some ⟨.openDev hash seed, .opening .load⟩ →
    (s.turn = .host 0 → exec (.openDev hash seed) s = .next s) ∧
    (s.turn = .loader →
      let loaded (u : State) (n : Word64) : State := { u with
        image := .loaded s.cfg.imgSentinel s.cfg.imgVersion, loadCount := s.loadCount + 1, loopback := none,
        resetAsserted := false, descQ := .all [], cmplQ := .all [], mm2sStart := .all none, counter := n,
        snap := .all none, wr := .all none, tc := 0 }
      (∃ u n, s.DrawsOnly u ∧
        agentStep s = .next ((loaded u n).putAt 0 (.openDev hash seed) (.opening .recheckSentinel))) ∧
      ∀ n rest, s.answers = n :: rest → agentStep s =
        .next ((loaded { s with answers := rest } n).putAt 0 (.openDev hash seed) (.opening .recheckSentinel)))

/-! ## The clock (45) -/

/-- R117, with R115 and R116: CLK_GET with no other agent's step in between. Where its pulse makes the latch-in edge and no
latch-out edge, as from `tc` = 0 under either latch edge, it reports the counter and its conversion and leaves the fields in
`snap`; from any `tc` it completes. -/
def Obligations.ClockGet : Prop :=
  EntryFaults .clkGet ∧
  ∀ (s : State) (t : Nat) (tables : PerChan Table), s.OpenAt t .clkGet .start tables → s.BusReady →
    (s.PulseWorks s.cfg.latchIn s.cfg.latchOut → execN .clkGet 6 s = .next ({ s with
      tc := 0
      snap := ⟨some (s.counter.extractLsb' 0 16), some (s.counter.extractLsb' 16 16),
        some (s.counter.extractLsb' 32 16), some (s.counter.extractLsb' 48 16)⟩
      wr := .all none }.completes t 0x00
        (some (BitVec.ofNat 64 (s.counter.toNat * 1000000000 / s.cfg.clockRateHz))) (some s.counter))) ∧
    (∃ u ticks, execN .clkGet 6 s = .next u ∧ (u.thread t).running = none ∧ (u.thread t).rstat = some 0x00 ∧
      (u.thread t).rv0 = some (BitVec.ofNat 64 (ticks.toNat * 1000000000 / s.cfg.clockRateHz)) ∧
      (u.thread t).rv1 = some ticks ∧ u.dev = s.dev ∧ u.mem = s.mem ∧ u.faults = s.faults ∧ u.tc = 0)

/-- R118, with R115 and R116: CLK_SET with no other agent's step in between. Where its pulse makes the latch-out edge and no
latch-in edge, as from `tc` = 0 under either latch edge, it commits the rounded-up tick count; from any `tc` it completes
with that count in RV0. -/
def Obligations.ClockSet : Prop :=
  ∀ ns, EntryFaults (.clkSet ns) ∧
    ∀ (s : State) (t : Nat) (tables : PerChan Table), s.OpenAt t (.clkSet ns) .start tables → s.BusReady →
      let ticks : Word64 := BitVec.ofNat 64 (ceilDiv (ns.toNat * s.cfg.clockRateHz) 1000000000)
      (s.PulseWorks s.cfg.latchOut s.cfg.latchIn → execN (.clkSet ns) 6 s = .next ({ s with
        tc := 0
        counter := ticks
        wr := ⟨some (ticks.extractLsb' 0 16), some (ticks.extractLsb' 16 16), some (ticks.extractLsb' 32 16),
          some (ticks.extractLsb' 48 16)⟩
        snap := .all none }.completes t 0x00 (some ticks) (s.thread t).rv1)) ∧
      (∃ u, execN (.clkSet ns) 6 s = .next u ∧ (u.thread t).running = none ∧ (u.thread t).rstat = some 0x00 ∧
        (u.thread t).rv0 = some ticks ∧ (u.thread t).rv1 = (s.thread t).rv1 ∧ u.dev = s.dev ∧ u.mem = s.mem ∧
        u.faults = s.faults ∧ u.tc = 0)

/-- R119: CLK_SET and then CLK_GET, with any number of CLOCK ticks in each gap around the two latch edges and no other
agent's step. The get reports the tick count set plus the ticks between the active edges; with none, its nanoseconds are
within one tick of those set. R119 speaks of the latch-out edge of the set: `PulseWorks` says that there is one, and that
the set's pulse makes no latch-in edge, which would drop the fields it has written. Only a raw write of TIME_CTRL that
leaves a latch bit set can make it false. The number of steps in `setThenGet` is the model's own (assumption 1). -/
def Obligations.SetThenGetWithinOneTick : Prop :=
  ∀ s t ns tables (a b c d e : Nat), s.OpenAt t (.clkSet ns) .start tables → s.BusReady →
      s.PulseWorks s.cfg.latchOut s.cfg.latchIn →
    let rate := s.cfg.clockRateHz
    let m := ceilDiv (ns.toNat * rate) 1000000000
    let k := match s.cfg.latchEdge with
      | .rising => a + b + c
      | .falling => b + c + d
    m + k < 2 ^ 64 →
    ∃ u rv0, setThenGet ns a b c d e s = .next u ∧ (u.thread t).running = none ∧
      (u.thread t).cp = (s.thread t).cp + 2 ∧ (u.thread t).rstat = some 0x00 ∧
      (u.thread t).rv1 = some (BitVec.ofNat 64 (m + k)) ∧ (u.thread t).rv0 = some rv0 ∧
      rv0 = BitVec.ofNat 64 ((m + k) * 1000000000 / rate) ∧
      (k = 0 → m * 1000000000 / rate < 2 ^ 64 →
        ns.toNat ≤ rv0.toNat ∧ rv0.toNat * rate < ns.toNat * rate + 1000000000)

/-! ## The lifecycle (41) -/

/-- R78, R79, R77, R123: the steps of OPEN from its first to the cache tag, with the two draws of a mapping step given by the
answers. A failed mapping, and a sentinel or version that is wrong after the load, unwind the open and end it with its
diagnostics. -/
def Obligations.OpenBringUpSteps : Prop :=
  ∀ (s : State) (t : Nat) hash seed,
    let i : Instr := .openDev hash seed
    let at_ (p : OpenPoint) : Prop := s.At t i (.opening p)
    let goes (u : State) (p : OpenPoint) : Prop := exec i s = .next (u.putAt t i (.opening p))
    let ends (u : State) (st : Byte) (v0 v1 : Word64) : Prop :=
      exec i s = .next ({ u with mapped := ⟨false, false, false, false⟩, busEnergized := false, dev := .closed }.completes t
        st (some v0) (some v1))
    let written (u : State) (p : OpenPoint) : Prop := s.BusReady → goes u p
    (s.At t i .start → goes { s with dev := .opening } (.map .node)) ∧
    (∀ ok err rest, s.answers = ok :: err :: rest →
      let u : State := { s with answers := rest }
      (ok.getLsbD 0 = false →
        (at_ (.map .node) → ends u 0x10 1 err) ∧ (at_ (.map .reg) → ends u 0x10 2 err) ∧
        (at_ (.map .framer) → ends u 0x10 3 err) ∧ (at_ (.map .deframer) → ends u 0x10 4 err)) ∧
      (ok.getLsbD 0 = true →
        (at_ (.map .node) → goes u (.map .reg)) ∧
        (at_ (.map .reg) → goes { u with mapped := { s.mapped with reg := true } } (.map .framer)) ∧
        (at_ (.map .framer) →
          goes { u with mapped := { s.mapped with framer := true }, mem := { s.mem with framer := [] } }
            (.map .deframer)) ∧
        (at_ (.map .deframer) →
          goes { u with
            mapped := { s.mapped with deframer := true }, mem := { s.mem with deframer := [] }
            busEnergized := false } .energise))) ∧
    (s.BusReady →
      (at_ .sentinel → ∃ x u, s.DrawsOnly u ∧ s.ReadsAs .sentinel x ∧ goes u (.version x)) ∧
      (∀ a, at_ (.version a) → ∃ v u, s.DrawsOnly u ∧ s.ReadsAs .version v ∧ goes u (.loopback a v)) ∧
      (∀ a v, at_ (.loopback a v) → ∃ l u, s.DrawsOnly u ∧ s.ReadsAs .loopback l ∧
        goes u (if a = s.cfg.sentinelExpected ∧ v = s.cfg.versionExpected ∧ l = hash.setWidth 16 then .resetSet false
          else .load)) ∧
      (at_ .recheckSentinel → ∃ x u, s.DrawsOnly u ∧ s.ReadsAs .sentinel x ∧ goes u (.recheckVersion x)) ∧
      (∀ a, at_ (.recheckVersion a) → ∃ v u, s.DrawsOnly u ∧ s.ReadsAs .version v ∧
        (a ≠ s.cfg.sentinelExpected → ends u 0x11 (a.setWidth 64) (s.cfg.sentinelExpected.setWidth 64)) ∧
        (a = s.cfg.sentinelExpected → v ≠ s.cfg.versionExpected →
          ends u 0x12 (v.setWidth 64) (s.cfg.versionExpected.setWidth 64)) ∧
        (a = s.cfg.sentinelExpected → v = s.cfg.versionExpected → goes u (.resetSet true)))) ∧
    (∀ l, at_ (.resetSet l) → s.BusReady → ∃ u n, s.DrawsOnly u ∧
      goes { u with
        resetAsserted := true, descQ := .all [], cmplQ := .all [], mm2sStart := .all none, counter := n,
        snap := .all none, wr := .all none, loopback := none } (.resetClear l)) ∧
    (∀ l, at_ (.resetClear l) → written { s with resetAsserted := false } (.tag l)) ∧
    (∀ l, at_ (.tag l) → written { s with loopback := some (hash.setWidth 16) } (.save l))

/-- R81, R82, R83, R84, R123: the steps of OPEN's two self-tests, whatever the generators are. A mismatch and a failed TEST
mapping unwind the open and end it with its diagnostics; the last step constructs the tables and completes. -/
def Obligations.OpenSelfTestSteps : Prop :=
  ∀ (s : State) (t : Nat) hash seed l,
    let i : Instr := .openDev hash seed
    let at_ (p : OpenPoint) : Prop := s.At t i (.opening p)
    let goes (u : State) (p : OpenPoint) : Prop := exec i s = .next (u.putAt t i (.opening p))
    let ends (u : State) (st : Byte) (v0 v1 : Word64) : Prop :=
      exec i s = .next ({ u with mapped := ⟨false, false, false, false⟩, busEnergized := false, dev := .closed }.completes t
        st (some v0) (some v1))
    let opens (u : State) : Prop :=
      exec i s = .next ({ u with
        mapped := { u.mapped with test := false }
        dev := .opened (Config.freshTables s.cfg) }.completes t 0x00 (some (if l then 1 else 0)) (some 0))
    let iters := s.cfg.selftestIters
    let bytes := s.cfg.testBytes
    (s.BusReady →
      (at_ (.save l) → ∃ x u, s.DrawsOnly u ∧ s.ReadsAs .loopback x ∧
        goes u (if 0 < iters then .regWrite l x 0 else .restore l x)) ∧
      (∀ saved k, at_ (.regWrite l saved k) →
        goes { s with loopback := some (Config.prng16 seed k) } (.regRead l saved k)) ∧
      (∀ saved k, at_ (.regRead l saved k) → ∃ r u, s.DrawsOnly u ∧ s.ReadsAs .loopback r ∧
        (r = Config.prng16 seed k →
          goes u (if k + 1 < iters then .regWrite l saved (k + 1) else .restore l saved)) ∧
        (r ≠ Config.prng16 seed k →
          ends u 0x13 (BitVec.ofNat 64 k) (BitVec.setWidth 64 (Config.prng16 seed k ++ r)))) ∧
      (∀ saved, at_ (.restore l saved) → goes { s with loopback := some saved } (.mapTest l))) ∧
    (∀ ok err rest, at_ (.mapTest l) → s.answers = ok :: err :: rest →
      let u : State := { s with answers := rest }
      let m : State := { u with mapped := { s.mapped with test := true }, mem := { s.mem with test := [] } }
      (ok.getLsbD 0 = false → ends u 0x10 5 err) ∧
      (ok.getLsbD 0 = true → (0 < bytes → goes m (.memWrite l 0)) ∧ (bytes = 0 → opens m))) ∧
    (s.cfg.fabricResponds = true →
      (∀ k, at_ (.memWrite l k) → k < bytes →
        goes (s.storeByte .test k (Config.prng8 seed k))
          (if k + 1 < bytes then .memWrite l (k + 1) else .memRead l 0)) ∧
      (∀ k, at_ (.memRead l k) → k < bytes → ∃ r u, s.DrawsOnly u ∧
        (s.cfg.fabricFaithful = true → ∀ x, s.byteAt .test k = some x → r = x) ∧
        (r = Config.prng8 seed k →
          (k + 1 < bytes → goes u (.memRead l (k + 1))) ∧ (bytes ≤ k + 1 → opens u)) ∧
        (r ≠ Config.prng8 seed k →
          ends u 0x14 (BitVec.ofNat 64 k) (BitVec.setWidth 64 (Config.prng8 seed k ++ r)))))

/-- R84, R79, R81, R82, R138: the whole OPEN of a matching image and tag, in a faithful fabric, with every mapping draw
succeeding and no other agent's step in between. It loads nothing, and leaves the tag in the loopback, whatever the
generators are. The image may be UNKNOWN and the loopback without a value, where the draws of the check reads match. The
other twelve draws are those of the mappings (`ok` and `err` each), the energising read, and the counter after the reset
pulse. The number of steps is the model's own (assumption 1). -/
def Obligations.OpenWithoutReload : Prop :=
  ∀ (s : State) (t : Nat) hash seed ok1 e1 ok2 e2 ok3 e3 ok4 e4 x checks n ok5 e5 rest,
    s.At t (.openDev hash seed) .start →
    s.cfg.wf = true → s.cfg.fabricResponds = true → s.cfg.fabricFaithful = true →
    s.ChecksRead s.cfg.sentinelExpected s.cfg.versionExpected (hash.setWidth 16) checks →
    s.answers = [ok1, e1, ok2, e2, ok3, e3, ok4, e4, x] ++ checks ++ [n, ok5, e5] ++ rest →
    (∀ ok ∈ [ok1, ok2, ok3, ok4, ok5], ok.getLsbD 0 = true) →
    ∃ m, execN (.openDev hash seed) (15 + 2 * s.cfg.selftestIters + 2 * s.cfg.testBytes) s =
        .next ({ s with
          answers := rest, dev := .opened (Config.freshTables s.cfg)
          mapped := { s.mapped with reg := true, framer := true, deframer := true, test := false }
          busEnergized := true, loopback := some (hash.setWidth 16), resetAsserted := false, descQ := .all []
          cmplQ := .all [], mm2sStart := .all none, counter := n, snap := .all none, wr := .all none
          mem := ⟨[], [], m⟩ }.completes t 0x00 (some 0) (some 0)) ∧
      ∀ k, Memory.read m k = if k < s.cfg.testBytes then some (Config.prng8 seed k) else none

/-- R84, R79, R80: the whole OPEN of an image or tag that does not match, with the LOADER's one step where OPEN waits for it,
and no other agent's step in between. It loads exactly once. The image may be UNKNOWN and the loopback without a value, as
at power-on in the reference configuration, where the draws of the check reads do not match. The other thirteen draws are
those of `OpenWithoutReload` and the counter after the load. The numbers of steps are the model's own (assumption 1). -/
def Obligations.OpenWithOneReload : Prop :=
  ∀ (s : State) (t : Nat) hash seed a v l ok1 e1 ok2 e2 ok3 e3 ok4 e4 x checks n' n ok5 e5 rest,
    s.At t (.openDev hash seed) .start → t = 0 →
    s.cfg.wf = true → s.cfg.fabricResponds = true → s.cfg.fabricFaithful = true →
    s.ChecksRead a v l checks →
    (a ≠ s.cfg.sentinelExpected ∨ v ≠ s.cfg.versionExpected ∨ l ≠ hash.setWidth 16) →
    s.cfg.imgSentinel = s.cfg.sentinelExpected → s.cfg.imgVersion = s.cfg.versionExpected →
    s.answers = [ok1, e1, ok2, e2, ok3, e3, ok4, e4, x] ++ checks ++ [n', n, ok5, e5] ++ rest →
    (∀ ok ∈ [ok1, ok2, ok3, ok4, ok5], ok.getLsbD 0 = true) →
    ∃ waiting loaded m, execN (.openDev hash seed) 9 s = .next waiting ∧ waiting.loadCount = s.loadCount ∧
      agentStep { waiting with turn := .loader } = .next loaded ∧
      execN (.openDev hash seed) (8 + 2 * s.cfg.selftestIters + 2 * s.cfg.testBytes) { loaded with turn := .host t } =
        .next ({ s with
          answers := rest, dev := .opened (Config.freshTables s.cfg)
          mapped := { s.mapped with reg := true, framer := true, deframer := true, test := false }
          busEnergized := true, image := .loaded s.cfg.imgSentinel s.cfg.imgVersion, loadCount := s.loadCount + 1
          loopback := some (hash.setWidth 16), resetAsserted := false, descQ := .all [], cmplQ := .all []
          mm2sStart := .all none, counter := n, snap := .all none, wr := .all none, tc := 0
          mem := ⟨[], [], m⟩ }.completes t 0x00 (some 1) (some 0)) ∧
      ∀ k, Memory.read m k = if k < s.cfg.testBytes then some (Config.prng8 seed k) else none

/-- R85, R122: CLOSE takes the tables, the mappings and the energised bus away, makes no bus step and leaves the fabric, the
clock, the memory and the result values as they are. Its entry faults are those of R121. Of the other threads it changes
only the commands in progress, which are cut off (the model's form of R122's last sentence, assumption 20). -/
def Obligations.CloseCommand : Prop :=
  (∀ (s : State) (t : Nat), s.Idle t →
    (t ≠ 0 → exec .closeDev s = .next (s.faultBy t .lifecycleOwner (.thread t))) ∧
    (t = 0 → ¬ s.IsOpen → exec .closeDev s = .next (s.faultBy t .notOpen (.opcode 0x11))) ∧
    (t = 0 → s.IsOpen → exec .closeDev s = .next (s.putAt t .closeDev .start))) ∧
  (∀ (s : State) (t : Nat), s.At t .closeDev .start → ∃ others : List Thread, exec .closeDev s =
    .next ({ s with
      threads := others, mapped := ⟨false, false, false, false⟩, busEnergized := false, dev := .closed }.completes t 0x00
        (s.thread t).rv0 (s.thread t).rv1) ∧
    others.length = s.threads.length ∧ others[t]? = s.threads[t]? ∧
    ∀ (k : Nat) (th : Thread), s.threads[k]? = some th →
      (∀ i p, th.running = some ⟨i, p⟩ → i.isLifecycle = false →
        others[k]? = some { th with running := some ⟨i, .cut⟩ }) ∧
      ((∀ i p, th.running = some ⟨i, p⟩ → i.isLifecycle = true) → others[k]? = some th))
end

