-- ==== Sys2Proof/Laws/State.lean ====
section
/-! SUPPORT. One lemma per field per update of State, true by rfl, so that no proof unfolds a record update; the lemmas of
the per-channel and per-field records, of the threads, and of draws. -/

namespace Sys2Proof

variable {α : Type}

@[simp] theorem PerChan.get_set_same (p : PerChan α) (c : Chan) (a : α) : (p.set c a).get c = a := by
  cases c <;> rfl

theorem PerChan.get_set_ne (p : PerChan α) {c d : Chan} (h : d ≠ c) (a : α) : (p.set c a).get d = p.get d := by
  cases c <;> cases d <;> first | rfl | exact absurd rfl h

theorem PerChan.get_set (p : PerChan α) (c d : Chan) (a : α) :
    (p.set c a).get d = if d = c then a else p.get d := by
  by_cases h : d = c
  · subst h; simp
  · simp [h, PerChan.get_set_ne]

@[simp] theorem PerChan.get_all (a : α) (c : Chan) : (PerChan.all a).get c = a := by cases c <;> rfl

theorem PerChan.ext_get {p q : PerChan α} (h : ∀ c, p.get c = q.get c) : p = q := by
  cases p; cases q
  simp only [PerChan.mk.injEq]
  exact ⟨h .framerMm2s, h .framerS2mm, h .deframerMm2s, h .deframerS2mm⟩

@[simp] theorem PerField.get_set_same (p : PerField α) (k : TimeField) (a : α) : (p.set k a).get k = a := by
  cases k <;> rfl

theorem PerField.get_set (p : PerField α) (k l : TimeField) (a : α) :
    (p.set k a).get l = if l = k then a else p.get l := by
  cases k <;> cases l <;> rfl

@[simp] theorem PerField.get_all (a : α) (k : TimeField) : (PerField.all a).get k = a := by cases k <;> rfl

end Sys2Proof

namespace Sys2Proof.Machine

open Sys2Proof

/-! ### `setThread` -/

@[simp] theorem State.setThread_cfg (s : State) (t : Nat) (th : Thread) : (s.setThread t th).cfg = s.cfg := rfl
@[simp] theorem State.setThread_turn (s : State) (t : Nat) (th : Thread) : (s.setThread t th).turn = s.turn := rfl
@[simp] theorem State.setThread_sched (s : State) (t : Nat) (th : Thread) : (s.setThread t th).sched = s.sched := rfl
@[simp] theorem State.setThread_answers (s : State) (t : Nat) (th : Thread) : (s.setThread t th).answers = s.answers := rfl
@[simp] theorem State.setThread_drawn (s : State) (t : Nat) (th : Thread) : (s.setThread t th).drawn = s.drawn := rfl
@[simp] theorem State.setThread_threads (s : State) (t : Nat) (th : Thread) : (s.setThread t th).threads = s.threads.set t th := rfl
@[simp] theorem State.setThread_dev (s : State) (t : Nat) (th : Thread) : (s.setThread t th).dev = s.dev := rfl
@[simp] theorem State.setThread_mapped (s : State) (t : Nat) (th : Thread) : (s.setThread t th).mapped = s.mapped := rfl
@[simp] theorem State.setThread_busEnergized (s : State) (t : Nat) (th : Thread) : (s.setThread t th).busEnergized = s.busEnergized := rfl
@[simp] theorem State.setThread_faults (s : State) (t : Nat) (th : Thread) : (s.setThread t th).faults = s.faults := rfl
@[simp] theorem State.setThread_image (s : State) (t : Nat) (th : Thread) : (s.setThread t th).image = s.image := rfl
@[simp] theorem State.setThread_loopback (s : State) (t : Nat) (th : Thread) : (s.setThread t th).loopback = s.loopback := rfl
@[simp] theorem State.setThread_resetAsserted (s : State) (t : Nat) (th : Thread) : (s.setThread t th).resetAsserted = s.resetAsserted := rfl
@[simp] theorem State.setThread_descQ (s : State) (t : Nat) (th : Thread) : (s.setThread t th).descQ = s.descQ := rfl
@[simp] theorem State.setThread_cmplQ (s : State) (t : Nat) (th : Thread) : (s.setThread t th).cmplQ = s.cmplQ := rfl
@[simp] theorem State.setThread_mm2sStart (s : State) (t : Nat) (th : Thread) : (s.setThread t th).mm2sStart = s.mm2sStart := rfl
@[simp] theorem State.setThread_loadCount (s : State) (t : Nat) (th : Thread) : (s.setThread t th).loadCount = s.loadCount := rfl
@[simp] theorem State.setThread_streamOut (s : State) (t : Nat) (th : Thread) : (s.setThread t th).streamOut = s.streamOut := rfl
@[simp] theorem State.setThread_streamIn (s : State) (t : Nat) (th : Thread) : (s.setThread t th).streamIn = s.streamIn := rfl
@[simp] theorem State.setThread_counter (s : State) (t : Nat) (th : Thread) : (s.setThread t th).counter = s.counter := rfl
@[simp] theorem State.setThread_snap (s : State) (t : Nat) (th : Thread) : (s.setThread t th).snap = s.snap := rfl
@[simp] theorem State.setThread_wr (s : State) (t : Nat) (th : Thread) : (s.setThread t th).wr = s.wr := rfl
@[simp] theorem State.setThread_tc (s : State) (t : Nat) (th : Thread) : (s.setThread t th).tc = s.tc := rfl
@[simp] theorem State.setThread_mem (s : State) (t : Nat) (th : Thread) : (s.setThread t th).mem = s.mem := rfl

/-! ### `putAt` -/

@[simp] theorem State.putAt_cfg (s : State) (t : Nat) (i : Instr) (p : Point) : (s.putAt t i p).cfg = s.cfg := rfl
@[simp] theorem State.putAt_turn (s : State) (t : Nat) (i : Instr) (p : Point) : (s.putAt t i p).turn = s.turn := rfl
@[simp] theorem State.putAt_sched (s : State) (t : Nat) (i : Instr) (p : Point) : (s.putAt t i p).sched = s.sched := rfl
@[simp] theorem State.putAt_answers (s : State) (t : Nat) (i : Instr) (p : Point) : (s.putAt t i p).answers = s.answers := rfl
@[simp] theorem State.putAt_drawn (s : State) (t : Nat) (i : Instr) (p : Point) : (s.putAt t i p).drawn = s.drawn := rfl
@[simp] theorem State.putAt_dev (s : State) (t : Nat) (i : Instr) (p : Point) : (s.putAt t i p).dev = s.dev := rfl
@[simp] theorem State.putAt_mapped (s : State) (t : Nat) (i : Instr) (p : Point) : (s.putAt t i p).mapped = s.mapped := rfl
@[simp] theorem State.putAt_busEnergized (s : State) (t : Nat) (i : Instr) (p : Point) : (s.putAt t i p).busEnergized = s.busEnergized := rfl
@[simp] theorem State.putAt_faults (s : State) (t : Nat) (i : Instr) (p : Point) : (s.putAt t i p).faults = s.faults := rfl
@[simp] theorem State.putAt_image (s : State) (t : Nat) (i : Instr) (p : Point) : (s.putAt t i p).image = s.image := rfl
@[simp] theorem State.putAt_loopback (s : State) (t : Nat) (i : Instr) (p : Point) : (s.putAt t i p).loopback = s.loopback := rfl
@[simp] theorem State.putAt_resetAsserted (s : State) (t : Nat) (i : Instr) (p : Point) : (s.putAt t i p).resetAsserted = s.resetAsserted := rfl
@[simp] theorem State.putAt_descQ (s : State) (t : Nat) (i : Instr) (p : Point) : (s.putAt t i p).descQ = s.descQ := rfl
@[simp] theorem State.putAt_cmplQ (s : State) (t : Nat) (i : Instr) (p : Point) : (s.putAt t i p).cmplQ = s.cmplQ := rfl
@[simp] theorem State.putAt_mm2sStart (s : State) (t : Nat) (i : Instr) (p : Point) : (s.putAt t i p).mm2sStart = s.mm2sStart := rfl
@[simp] theorem State.putAt_loadCount (s : State) (t : Nat) (i : Instr) (p : Point) : (s.putAt t i p).loadCount = s.loadCount := rfl
@[simp] theorem State.putAt_streamOut (s : State) (t : Nat) (i : Instr) (p : Point) : (s.putAt t i p).streamOut = s.streamOut := rfl
@[simp] theorem State.putAt_streamIn (s : State) (t : Nat) (i : Instr) (p : Point) : (s.putAt t i p).streamIn = s.streamIn := rfl
@[simp] theorem State.putAt_counter (s : State) (t : Nat) (i : Instr) (p : Point) : (s.putAt t i p).counter = s.counter := rfl
@[simp] theorem State.putAt_snap (s : State) (t : Nat) (i : Instr) (p : Point) : (s.putAt t i p).snap = s.snap := rfl
@[simp] theorem State.putAt_wr (s : State) (t : Nat) (i : Instr) (p : Point) : (s.putAt t i p).wr = s.wr := rfl
@[simp] theorem State.putAt_tc (s : State) (t : Nat) (i : Instr) (p : Point) : (s.putAt t i p).tc = s.tc := rfl
@[simp] theorem State.putAt_mem (s : State) (t : Nat) (i : Instr) (p : Point) : (s.putAt t i p).mem = s.mem := rfl

/-! ### `goto` -/

@[simp] theorem State.goto_cfg (s : State) (i : Instr) (p : Point) : (s.goto i p).cfg = s.cfg := rfl
@[simp] theorem State.goto_turn (s : State) (i : Instr) (p : Point) : (s.goto i p).turn = s.turn := rfl
@[simp] theorem State.goto_sched (s : State) (i : Instr) (p : Point) : (s.goto i p).sched = s.sched := rfl
@[simp] theorem State.goto_answers (s : State) (i : Instr) (p : Point) : (s.goto i p).answers = s.answers := rfl
@[simp] theorem State.goto_drawn (s : State) (i : Instr) (p : Point) : (s.goto i p).drawn = s.drawn := rfl
@[simp] theorem State.goto_dev (s : State) (i : Instr) (p : Point) : (s.goto i p).dev = s.dev := rfl
@[simp] theorem State.goto_mapped (s : State) (i : Instr) (p : Point) : (s.goto i p).mapped = s.mapped := rfl
@[simp] theorem State.goto_busEnergized (s : State) (i : Instr) (p : Point) : (s.goto i p).busEnergized = s.busEnergized := rfl
@[simp] theorem State.goto_faults (s : State) (i : Instr) (p : Point) : (s.goto i p).faults = s.faults := rfl
@[simp] theorem State.goto_image (s : State) (i : Instr) (p : Point) : (s.goto i p).image = s.image := rfl
@[simp] theorem State.goto_loopback (s : State) (i : Instr) (p : Point) : (s.goto i p).loopback = s.loopback := rfl
@[simp] theorem State.goto_resetAsserted (s : State) (i : Instr) (p : Point) : (s.goto i p).resetAsserted = s.resetAsserted := rfl
@[simp] theorem State.goto_descQ (s : State) (i : Instr) (p : Point) : (s.goto i p).descQ = s.descQ := rfl
@[simp] theorem State.goto_cmplQ (s : State) (i : Instr) (p : Point) : (s.goto i p).cmplQ = s.cmplQ := rfl
@[simp] theorem State.goto_mm2sStart (s : State) (i : Instr) (p : Point) : (s.goto i p).mm2sStart = s.mm2sStart := rfl
@[simp] theorem State.goto_loadCount (s : State) (i : Instr) (p : Point) : (s.goto i p).loadCount = s.loadCount := rfl
@[simp] theorem State.goto_streamOut (s : State) (i : Instr) (p : Point) : (s.goto i p).streamOut = s.streamOut := rfl
@[simp] theorem State.goto_streamIn (s : State) (i : Instr) (p : Point) : (s.goto i p).streamIn = s.streamIn := rfl
@[simp] theorem State.goto_counter (s : State) (i : Instr) (p : Point) : (s.goto i p).counter = s.counter := rfl
@[simp] theorem State.goto_snap (s : State) (i : Instr) (p : Point) : (s.goto i p).snap = s.snap := rfl
@[simp] theorem State.goto_wr (s : State) (i : Instr) (p : Point) : (s.goto i p).wr = s.wr := rfl
@[simp] theorem State.goto_tc (s : State) (i : Instr) (p : Point) : (s.goto i p).tc = s.tc := rfl
@[simp] theorem State.goto_mem (s : State) (i : Instr) (p : Point) : (s.goto i p).mem = s.mem := rfl

/-! ### `finished` -/

@[simp] theorem State.finished_cfg (s : State) (st : Status) (v0 v1 : Option Word64) : (s.finished st v0 v1).cfg = s.cfg := rfl
@[simp] theorem State.finished_turn (s : State) (st : Status) (v0 v1 : Option Word64) : (s.finished st v0 v1).turn = s.turn := rfl
@[simp] theorem State.finished_sched (s : State) (st : Status) (v0 v1 : Option Word64) : (s.finished st v0 v1).sched = s.sched := rfl
@[simp] theorem State.finished_answers (s : State) (st : Status) (v0 v1 : Option Word64) : (s.finished st v0 v1).answers = s.answers := rfl
@[simp] theorem State.finished_drawn (s : State) (st : Status) (v0 v1 : Option Word64) : (s.finished st v0 v1).drawn = s.drawn := rfl
@[simp] theorem State.finished_dev (s : State) (st : Status) (v0 v1 : Option Word64) : (s.finished st v0 v1).dev = s.dev := rfl
@[simp] theorem State.finished_mapped (s : State) (st : Status) (v0 v1 : Option Word64) : (s.finished st v0 v1).mapped = s.mapped := rfl
@[simp] theorem State.finished_busEnergized (s : State) (st : Status) (v0 v1 : Option Word64) : (s.finished st v0 v1).busEnergized = s.busEnergized := rfl
@[simp] theorem State.finished_faults (s : State) (st : Status) (v0 v1 : Option Word64) : (s.finished st v0 v1).faults = s.faults := rfl
@[simp] theorem State.finished_image (s : State) (st : Status) (v0 v1 : Option Word64) : (s.finished st v0 v1).image = s.image := rfl
@[simp] theorem State.finished_loopback (s : State) (st : Status) (v0 v1 : Option Word64) : (s.finished st v0 v1).loopback = s.loopback := rfl
@[simp] theorem State.finished_resetAsserted (s : State) (st : Status) (v0 v1 : Option Word64) : (s.finished st v0 v1).resetAsserted = s.resetAsserted := rfl
@[simp] theorem State.finished_descQ (s : State) (st : Status) (v0 v1 : Option Word64) : (s.finished st v0 v1).descQ = s.descQ := rfl
@[simp] theorem State.finished_cmplQ (s : State) (st : Status) (v0 v1 : Option Word64) : (s.finished st v0 v1).cmplQ = s.cmplQ := rfl
@[simp] theorem State.finished_mm2sStart (s : State) (st : Status) (v0 v1 : Option Word64) : (s.finished st v0 v1).mm2sStart = s.mm2sStart := rfl
@[simp] theorem State.finished_loadCount (s : State) (st : Status) (v0 v1 : Option Word64) : (s.finished st v0 v1).loadCount = s.loadCount := rfl
@[simp] theorem State.finished_streamOut (s : State) (st : Status) (v0 v1 : Option Word64) : (s.finished st v0 v1).streamOut = s.streamOut := rfl
@[simp] theorem State.finished_streamIn (s : State) (st : Status) (v0 v1 : Option Word64) : (s.finished st v0 v1).streamIn = s.streamIn := rfl
@[simp] theorem State.finished_counter (s : State) (st : Status) (v0 v1 : Option Word64) : (s.finished st v0 v1).counter = s.counter := rfl
@[simp] theorem State.finished_snap (s : State) (st : Status) (v0 v1 : Option Word64) : (s.finished st v0 v1).snap = s.snap := rfl
@[simp] theorem State.finished_wr (s : State) (st : Status) (v0 v1 : Option Word64) : (s.finished st v0 v1).wr = s.wr := rfl
@[simp] theorem State.finished_tc (s : State) (st : Status) (v0 v1 : Option Word64) : (s.finished st v0 v1).tc = s.tc := rfl
@[simp] theorem State.finished_mem (s : State) (st : Status) (v0 v1 : Option Word64) : (s.finished st v0 v1).mem = s.mem := rfl

/-! ### `raised` -/

@[simp] theorem State.raised_cfg (s : State) (code : FaultCode) (info : FaultInfo) : (s.raised code info).cfg = s.cfg := rfl
@[simp] theorem State.raised_turn (s : State) (code : FaultCode) (info : FaultInfo) : (s.raised code info).turn = s.turn := rfl
@[simp] theorem State.raised_sched (s : State) (code : FaultCode) (info : FaultInfo) : (s.raised code info).sched = s.sched := rfl
@[simp] theorem State.raised_answers (s : State) (code : FaultCode) (info : FaultInfo) : (s.raised code info).answers = s.answers := rfl
@[simp] theorem State.raised_drawn (s : State) (code : FaultCode) (info : FaultInfo) : (s.raised code info).drawn = s.drawn := rfl
@[simp] theorem State.raised_threads (s : State) (code : FaultCode) (info : FaultInfo) : (s.raised code info).threads = s.threads := rfl
@[simp] theorem State.raised_dev (s : State) (code : FaultCode) (info : FaultInfo) : (s.raised code info).dev = s.dev := rfl
@[simp] theorem State.raised_mapped (s : State) (code : FaultCode) (info : FaultInfo) : (s.raised code info).mapped = s.mapped := rfl
@[simp] theorem State.raised_busEnergized (s : State) (code : FaultCode) (info : FaultInfo) : (s.raised code info).busEnergized = s.busEnergized := rfl
@[simp] theorem State.raised_faults (s : State) (code : FaultCode) (info : FaultInfo) : (s.raised code info).faults = s.faults ++ [⟨code, s.turn, s.faultIndex, info⟩] := rfl
@[simp] theorem State.raised_image (s : State) (code : FaultCode) (info : FaultInfo) : (s.raised code info).image = s.image := rfl
@[simp] theorem State.raised_loopback (s : State) (code : FaultCode) (info : FaultInfo) : (s.raised code info).loopback = s.loopback := rfl
@[simp] theorem State.raised_resetAsserted (s : State) (code : FaultCode) (info : FaultInfo) : (s.raised code info).resetAsserted = s.resetAsserted := rfl
@[simp] theorem State.raised_descQ (s : State) (code : FaultCode) (info : FaultInfo) : (s.raised code info).descQ = s.descQ := rfl
@[simp] theorem State.raised_cmplQ (s : State) (code : FaultCode) (info : FaultInfo) : (s.raised code info).cmplQ = s.cmplQ := rfl
@[simp] theorem State.raised_mm2sStart (s : State) (code : FaultCode) (info : FaultInfo) : (s.raised code info).mm2sStart = s.mm2sStart := rfl
@[simp] theorem State.raised_loadCount (s : State) (code : FaultCode) (info : FaultInfo) : (s.raised code info).loadCount = s.loadCount := rfl
@[simp] theorem State.raised_streamOut (s : State) (code : FaultCode) (info : FaultInfo) : (s.raised code info).streamOut = s.streamOut := rfl
@[simp] theorem State.raised_streamIn (s : State) (code : FaultCode) (info : FaultInfo) : (s.raised code info).streamIn = s.streamIn := rfl
@[simp] theorem State.raised_counter (s : State) (code : FaultCode) (info : FaultInfo) : (s.raised code info).counter = s.counter := rfl
@[simp] theorem State.raised_snap (s : State) (code : FaultCode) (info : FaultInfo) : (s.raised code info).snap = s.snap := rfl
@[simp] theorem State.raised_wr (s : State) (code : FaultCode) (info : FaultInfo) : (s.raised code info).wr = s.wr := rfl
@[simp] theorem State.raised_tc (s : State) (code : FaultCode) (info : FaultInfo) : (s.raised code info).tc = s.tc := rfl
@[simp] theorem State.raised_mem (s : State) (code : FaultCode) (info : FaultInfo) : (s.raised code info).mem = s.mem := rfl

/-! ### `setTable` -/

@[simp] theorem State.setTable_cfg (s : State) (tables : PerChan Table) (c : Chan) (tb : Table) : (s.setTable tables c tb).cfg = s.cfg := rfl
@[simp] theorem State.setTable_turn (s : State) (tables : PerChan Table) (c : Chan) (tb : Table) : (s.setTable tables c tb).turn = s.turn := rfl
@[simp] theorem State.setTable_sched (s : State) (tables : PerChan Table) (c : Chan) (tb : Table) : (s.setTable tables c tb).sched = s.sched := rfl
@[simp] theorem State.setTable_answers (s : State) (tables : PerChan Table) (c : Chan) (tb : Table) : (s.setTable tables c tb).answers = s.answers := rfl
@[simp] theorem State.setTable_drawn (s : State) (tables : PerChan Table) (c : Chan) (tb : Table) : (s.setTable tables c tb).drawn = s.drawn := rfl
@[simp] theorem State.setTable_threads (s : State) (tables : PerChan Table) (c : Chan) (tb : Table) : (s.setTable tables c tb).threads = s.threads := rfl
@[simp] theorem State.setTable_dev (s : State) (tables : PerChan Table) (c : Chan) (tb : Table) : (s.setTable tables c tb).dev = .opened (tables.set c tb) := rfl
@[simp] theorem State.setTable_mapped (s : State) (tables : PerChan Table) (c : Chan) (tb : Table) : (s.setTable tables c tb).mapped = s.mapped := rfl
@[simp] theorem State.setTable_busEnergized (s : State) (tables : PerChan Table) (c : Chan) (tb : Table) : (s.setTable tables c tb).busEnergized = s.busEnergized := rfl
@[simp] theorem State.setTable_faults (s : State) (tables : PerChan Table) (c : Chan) (tb : Table) : (s.setTable tables c tb).faults = s.faults := rfl
@[simp] theorem State.setTable_image (s : State) (tables : PerChan Table) (c : Chan) (tb : Table) : (s.setTable tables c tb).image = s.image := rfl
@[simp] theorem State.setTable_loopback (s : State) (tables : PerChan Table) (c : Chan) (tb : Table) : (s.setTable tables c tb).loopback = s.loopback := rfl
@[simp] theorem State.setTable_resetAsserted (s : State) (tables : PerChan Table) (c : Chan) (tb : Table) : (s.setTable tables c tb).resetAsserted = s.resetAsserted := rfl
@[simp] theorem State.setTable_descQ (s : State) (tables : PerChan Table) (c : Chan) (tb : Table) : (s.setTable tables c tb).descQ = s.descQ := rfl
@[simp] theorem State.setTable_cmplQ (s : State) (tables : PerChan Table) (c : Chan) (tb : Table) : (s.setTable tables c tb).cmplQ = s.cmplQ := rfl
@[simp] theorem State.setTable_mm2sStart (s : State) (tables : PerChan Table) (c : Chan) (tb : Table) : (s.setTable tables c tb).mm2sStart = s.mm2sStart := rfl
@[simp] theorem State.setTable_loadCount (s : State) (tables : PerChan Table) (c : Chan) (tb : Table) : (s.setTable tables c tb).loadCount = s.loadCount := rfl
@[simp] theorem State.setTable_streamOut (s : State) (tables : PerChan Table) (c : Chan) (tb : Table) : (s.setTable tables c tb).streamOut = s.streamOut := rfl
@[simp] theorem State.setTable_streamIn (s : State) (tables : PerChan Table) (c : Chan) (tb : Table) : (s.setTable tables c tb).streamIn = s.streamIn := rfl
@[simp] theorem State.setTable_counter (s : State) (tables : PerChan Table) (c : Chan) (tb : Table) : (s.setTable tables c tb).counter = s.counter := rfl
@[simp] theorem State.setTable_snap (s : State) (tables : PerChan Table) (c : Chan) (tb : Table) : (s.setTable tables c tb).snap = s.snap := rfl
@[simp] theorem State.setTable_wr (s : State) (tables : PerChan Table) (c : Chan) (tb : Table) : (s.setTable tables c tb).wr = s.wr := rfl
@[simp] theorem State.setTable_tc (s : State) (tables : PerChan Table) (c : Chan) (tb : Table) : (s.setTable tables c tb).tc = s.tc := rfl
@[simp] theorem State.setTable_mem (s : State) (tables : PerChan Table) (c : Chan) (tb : Table) : (s.setTable tables c tb).mem = s.mem := rfl

/-! ### `storeByte` -/

@[simp] theorem State.storeByte_cfg (s : State) (w : Window) (a : Nat) (v : Byte) : (s.storeByte w a v).cfg = s.cfg := rfl
@[simp] theorem State.storeByte_turn (s : State) (w : Window) (a : Nat) (v : Byte) : (s.storeByte w a v).turn = s.turn := rfl
@[simp] theorem State.storeByte_sched (s : State) (w : Window) (a : Nat) (v : Byte) : (s.storeByte w a v).sched = s.sched := rfl
@[simp] theorem State.storeByte_answers (s : State) (w : Window) (a : Nat) (v : Byte) : (s.storeByte w a v).answers = s.answers := rfl
@[simp] theorem State.storeByte_drawn (s : State) (w : Window) (a : Nat) (v : Byte) : (s.storeByte w a v).drawn = s.drawn := rfl
@[simp] theorem State.storeByte_threads (s : State) (w : Window) (a : Nat) (v : Byte) : (s.storeByte w a v).threads = s.threads := rfl
@[simp] theorem State.storeByte_dev (s : State) (w : Window) (a : Nat) (v : Byte) : (s.storeByte w a v).dev = s.dev := rfl
@[simp] theorem State.storeByte_mapped (s : State) (w : Window) (a : Nat) (v : Byte) : (s.storeByte w a v).mapped = s.mapped := rfl
@[simp] theorem State.storeByte_busEnergized (s : State) (w : Window) (a : Nat) (v : Byte) : (s.storeByte w a v).busEnergized = s.busEnergized := rfl
@[simp] theorem State.storeByte_faults (s : State) (w : Window) (a : Nat) (v : Byte) : (s.storeByte w a v).faults = s.faults := rfl
@[simp] theorem State.storeByte_image (s : State) (w : Window) (a : Nat) (v : Byte) : (s.storeByte w a v).image = s.image := rfl
@[simp] theorem State.storeByte_loopback (s : State) (w : Window) (a : Nat) (v : Byte) : (s.storeByte w a v).loopback = s.loopback := rfl
@[simp] theorem State.storeByte_resetAsserted (s : State) (w : Window) (a : Nat) (v : Byte) : (s.storeByte w a v).resetAsserted = s.resetAsserted := rfl
@[simp] theorem State.storeByte_descQ (s : State) (w : Window) (a : Nat) (v : Byte) : (s.storeByte w a v).descQ = s.descQ := rfl
@[simp] theorem State.storeByte_cmplQ (s : State) (w : Window) (a : Nat) (v : Byte) : (s.storeByte w a v).cmplQ = s.cmplQ := rfl
@[simp] theorem State.storeByte_mm2sStart (s : State) (w : Window) (a : Nat) (v : Byte) : (s.storeByte w a v).mm2sStart = s.mm2sStart := rfl
@[simp] theorem State.storeByte_loadCount (s : State) (w : Window) (a : Nat) (v : Byte) : (s.storeByte w a v).loadCount = s.loadCount := rfl
@[simp] theorem State.storeByte_streamOut (s : State) (w : Window) (a : Nat) (v : Byte) : (s.storeByte w a v).streamOut = s.streamOut := rfl
@[simp] theorem State.storeByte_streamIn (s : State) (w : Window) (a : Nat) (v : Byte) : (s.storeByte w a v).streamIn = s.streamIn := rfl
@[simp] theorem State.storeByte_counter (s : State) (w : Window) (a : Nat) (v : Byte) : (s.storeByte w a v).counter = s.counter := rfl
@[simp] theorem State.storeByte_snap (s : State) (w : Window) (a : Nat) (v : Byte) : (s.storeByte w a v).snap = s.snap := rfl
@[simp] theorem State.storeByte_wr (s : State) (w : Window) (a : Nat) (v : Byte) : (s.storeByte w a v).wr = s.wr := rfl
@[simp] theorem State.storeByte_tc (s : State) (w : Window) (a : Nat) (v : Byte) : (s.storeByte w a v).tc = s.tc := rfl
@[simp] theorem State.storeByte_mem (s : State) (w : Window) (a : Nat) (v : Byte) : (s.storeByte w a v).mem = s.mem.set w (Memory.write (s.mem.get w) a v) := rfl

/-! ### `tick` -/

@[simp] theorem State.tick_cfg (s : State) : (s.tick).cfg = s.cfg := rfl
@[simp] theorem State.tick_turn (s : State) : (s.tick).turn = s.turn := rfl
@[simp] theorem State.tick_sched (s : State) : (s.tick).sched = s.sched := rfl
@[simp] theorem State.tick_answers (s : State) : (s.tick).answers = s.answers := rfl
@[simp] theorem State.tick_drawn (s : State) : (s.tick).drawn = s.drawn := rfl
@[simp] theorem State.tick_threads (s : State) : (s.tick).threads = s.threads := rfl
@[simp] theorem State.tick_dev (s : State) : (s.tick).dev = s.dev := rfl
@[simp] theorem State.tick_mapped (s : State) : (s.tick).mapped = s.mapped := rfl
@[simp] theorem State.tick_busEnergized (s : State) : (s.tick).busEnergized = s.busEnergized := rfl
@[simp] theorem State.tick_faults (s : State) : (s.tick).faults = s.faults := rfl
@[simp] theorem State.tick_image (s : State) : (s.tick).image = s.image := rfl
@[simp] theorem State.tick_loopback (s : State) : (s.tick).loopback = s.loopback := rfl
@[simp] theorem State.tick_resetAsserted (s : State) : (s.tick).resetAsserted = s.resetAsserted := rfl
@[simp] theorem State.tick_descQ (s : State) : (s.tick).descQ = s.descQ := rfl
@[simp] theorem State.tick_cmplQ (s : State) : (s.tick).cmplQ = s.cmplQ := rfl
@[simp] theorem State.tick_mm2sStart (s : State) : (s.tick).mm2sStart = s.mm2sStart := rfl
@[simp] theorem State.tick_loadCount (s : State) : (s.tick).loadCount = s.loadCount := rfl
@[simp] theorem State.tick_streamOut (s : State) : (s.tick).streamOut = s.streamOut := rfl
@[simp] theorem State.tick_streamIn (s : State) : (s.tick).streamIn = s.streamIn := rfl
@[simp] theorem State.tick_counter (s : State) : (s.tick).counter = s.counter + 1 := rfl
@[simp] theorem State.tick_snap (s : State) : (s.tick).snap = s.snap := rfl
@[simp] theorem State.tick_wr (s : State) : (s.tick).wr = s.wr := rfl
@[simp] theorem State.tick_tc (s : State) : (s.tick).tc = s.tc := rfl
@[simp] theorem State.tick_mem (s : State) : (s.tick).mem = s.mem := rfl

/-! ### `unwind` -/

@[simp] theorem State.unwind_cfg (s : State) : (s.unwind).cfg = s.cfg := rfl
@[simp] theorem State.unwind_turn (s : State) : (s.unwind).turn = s.turn := rfl
@[simp] theorem State.unwind_sched (s : State) : (s.unwind).sched = s.sched := rfl
@[simp] theorem State.unwind_answers (s : State) : (s.unwind).answers = s.answers := rfl
@[simp] theorem State.unwind_drawn (s : State) : (s.unwind).drawn = s.drawn := rfl
@[simp] theorem State.unwind_threads (s : State) : (s.unwind).threads = s.threads := rfl
@[simp] theorem State.unwind_dev (s : State) : (s.unwind).dev = .closed := rfl
@[simp] theorem State.unwind_mapped (s : State) : (s.unwind).mapped = .empty := rfl
@[simp] theorem State.unwind_busEnergized (s : State) : (s.unwind).busEnergized = false := rfl
@[simp] theorem State.unwind_faults (s : State) : (s.unwind).faults = s.faults := rfl
@[simp] theorem State.unwind_image (s : State) : (s.unwind).image = s.image := rfl
@[simp] theorem State.unwind_loopback (s : State) : (s.unwind).loopback = s.loopback := rfl
@[simp] theorem State.unwind_resetAsserted (s : State) : (s.unwind).resetAsserted = s.resetAsserted := rfl
@[simp] theorem State.unwind_descQ (s : State) : (s.unwind).descQ = s.descQ := rfl
@[simp] theorem State.unwind_cmplQ (s : State) : (s.unwind).cmplQ = s.cmplQ := rfl
@[simp] theorem State.unwind_mm2sStart (s : State) : (s.unwind).mm2sStart = s.mm2sStart := rfl
@[simp] theorem State.unwind_loadCount (s : State) : (s.unwind).loadCount = s.loadCount := rfl
@[simp] theorem State.unwind_streamOut (s : State) : (s.unwind).streamOut = s.streamOut := rfl
@[simp] theorem State.unwind_streamIn (s : State) : (s.unwind).streamIn = s.streamIn := rfl
@[simp] theorem State.unwind_counter (s : State) : (s.unwind).counter = s.counter := rfl
@[simp] theorem State.unwind_snap (s : State) : (s.unwind).snap = s.snap := rfl
@[simp] theorem State.unwind_wr (s : State) : (s.unwind).wr = s.wr := rfl
@[simp] theorem State.unwind_tc (s : State) : (s.unwind).tc = s.tc := rfl
@[simp] theorem State.unwind_mem (s : State) : (s.unwind).mem = s.mem := rfl

/-! ### `cutOff` -/

@[simp] theorem State.cutOff_cfg (s : State) : (s.cutOff).cfg = s.cfg := rfl
@[simp] theorem State.cutOff_turn (s : State) : (s.cutOff).turn = s.turn := rfl
@[simp] theorem State.cutOff_sched (s : State) : (s.cutOff).sched = s.sched := rfl
@[simp] theorem State.cutOff_answers (s : State) : (s.cutOff).answers = s.answers := rfl
@[simp] theorem State.cutOff_drawn (s : State) : (s.cutOff).drawn = s.drawn := rfl
@[simp] theorem State.cutOff_dev (s : State) : (s.cutOff).dev = s.dev := rfl
@[simp] theorem State.cutOff_mapped (s : State) : (s.cutOff).mapped = s.mapped := rfl
@[simp] theorem State.cutOff_busEnergized (s : State) : (s.cutOff).busEnergized = s.busEnergized := rfl
@[simp] theorem State.cutOff_faults (s : State) : (s.cutOff).faults = s.faults := rfl
@[simp] theorem State.cutOff_image (s : State) : (s.cutOff).image = s.image := rfl
@[simp] theorem State.cutOff_loopback (s : State) : (s.cutOff).loopback = s.loopback := rfl
@[simp] theorem State.cutOff_resetAsserted (s : State) : (s.cutOff).resetAsserted = s.resetAsserted := rfl
@[simp] theorem State.cutOff_descQ (s : State) : (s.cutOff).descQ = s.descQ := rfl
@[simp] theorem State.cutOff_cmplQ (s : State) : (s.cutOff).cmplQ = s.cmplQ := rfl
@[simp] theorem State.cutOff_mm2sStart (s : State) : (s.cutOff).mm2sStart = s.mm2sStart := rfl
@[simp] theorem State.cutOff_loadCount (s : State) : (s.cutOff).loadCount = s.loadCount := rfl
@[simp] theorem State.cutOff_streamOut (s : State) : (s.cutOff).streamOut = s.streamOut := rfl
@[simp] theorem State.cutOff_streamIn (s : State) : (s.cutOff).streamIn = s.streamIn := rfl
@[simp] theorem State.cutOff_counter (s : State) : (s.cutOff).counter = s.counter := rfl
@[simp] theorem State.cutOff_snap (s : State) : (s.cutOff).snap = s.snap := rfl
@[simp] theorem State.cutOff_wr (s : State) : (s.cutOff).wr = s.wr := rfl
@[simp] theorem State.cutOff_tc (s : State) : (s.cutOff).tc = s.tc := rfl
@[simp] theorem State.cutOff_mem (s : State) : (s.cutOff).mem = s.mem := rfl
@[simp] theorem State.cutOff_tid (s : State) : s.cutOff.tid = s.tid := rfl
@[simp] theorem State.unwind_tid (s : State) : s.unwind.tid = s.tid := rfl
@[simp] theorem State.cutOff_threads_length (s : State) : s.cutOff.threads.length = s.threads.length := by
  simp [State.cutOff]

@[simp] theorem Thread.cutOff_cp (th : Thread) : th.cutOff.cp = th.cp := by
  unfold Thread.cutOff; split; rfl; split <;> rfl
@[simp] theorem Thread.cutOff_rstat (th : Thread) : th.cutOff.rstat = th.rstat := by
  unfold Thread.cutOff; split; rfl; split <;> rfl
@[simp] theorem Thread.cutOff_rv0 (th : Thread) : th.cutOff.rv0 = th.rv0 := by
  unfold Thread.cutOff; split; rfl; split <;> rfl
@[simp] theorem Thread.cutOff_rv1 (th : Thread) : th.cutOff.rv1 = th.rv1 := by
  unfold Thread.cutOff; split; rfl; split <;> rfl
@[simp] theorem Thread.cutOff_stream (th : Thread) : th.cutOff.stream = th.stream := by
  unfold Thread.cutOff; split; rfl; split <;> rfl

/-- A thread with no command in progress, or in OPEN or CLOSE, is not cut off. -/
theorem Thread.cutOff_of_lifecycle {th : Thread} (h : ∀ r, th.running = some r → r.instr.isLifecycle = true) :
    th.cutOff = th := by
  unfold Thread.cutOff
  split
  · rfl
  · next r hr => rw [if_pos (h r hr)]

/-- Any other command in progress is. -/
theorem Thread.cutOff_of_command {th : Thread} {i : Instr} {p : Point} (h : th.running = some ⟨i, p⟩)
    (hl : i.isLifecycle = false) : th.cutOff = { th with running := some ⟨i, .cut⟩ } := by
  simp [Thread.cutOff, h, hl]

/-- What a thread has in progress after CLOSE. -/
theorem Thread.cutOff_cases {th : Thread} {r : Running} (h : th.cutOff.running = some r) :
    (th.running = some r ∧ r.instr.isLifecycle = true) ∨
      (r.instr.isLifecycle = false ∧ r.point = .cut ∧ ∃ p, th.running = some ⟨r.instr, p⟩) := by
  unfold Thread.cutOff at h
  split at h
  · next e => rw [e] at h; cases h
  · next q e =>
    split at h
    · next hl => rw [e] at h; cases h; exact .inl ⟨e, hl⟩
    · next hl => cases h; exact .inr ⟨by simpa using hl, rfl, q.point, e⟩

@[simp] theorem State.cutOff_thread (s : State) (t : Nat) : s.cutOff.thread t = (s.thread t).cutOff := by
  simp only [State.thread, State.cutOff, List.getD_eq_getElem?_getD, List.getElem?_map]
  cases s.threads[t]? <;> rfl

/-! ### `draw` -/

@[simp] theorem State.draw_cfg (s : State) : s.draw.2.cfg = s.cfg := by
  unfold State.draw; split <;> rfl
@[simp] theorem State.draw_turn (s : State) : s.draw.2.turn = s.turn := by
  unfold State.draw; split <;> rfl
@[simp] theorem State.draw_sched (s : State) : s.draw.2.sched = s.sched := by
  unfold State.draw; split <;> rfl
@[simp] theorem State.draw_threads (s : State) : s.draw.2.threads = s.threads := by
  unfold State.draw; split <;> rfl
@[simp] theorem State.draw_dev (s : State) : s.draw.2.dev = s.dev := by
  unfold State.draw; split <;> rfl
@[simp] theorem State.draw_mapped (s : State) : s.draw.2.mapped = s.mapped := by
  unfold State.draw; split <;> rfl
@[simp] theorem State.draw_busEnergized (s : State) : s.draw.2.busEnergized = s.busEnergized := by
  unfold State.draw; split <;> rfl
@[simp] theorem State.draw_faults (s : State) : s.draw.2.faults = s.faults := by
  unfold State.draw; split <;> rfl
@[simp] theorem State.draw_image (s : State) : s.draw.2.image = s.image := by
  unfold State.draw; split <;> rfl
@[simp] theorem State.draw_loopback (s : State) : s.draw.2.loopback = s.loopback := by
  unfold State.draw; split <;> rfl
@[simp] theorem State.draw_resetAsserted (s : State) : s.draw.2.resetAsserted = s.resetAsserted := by
  unfold State.draw; split <;> rfl
@[simp] theorem State.draw_descQ (s : State) : s.draw.2.descQ = s.descQ := by
  unfold State.draw; split <;> rfl
@[simp] theorem State.draw_cmplQ (s : State) : s.draw.2.cmplQ = s.cmplQ := by
  unfold State.draw; split <;> rfl
@[simp] theorem State.draw_mm2sStart (s : State) : s.draw.2.mm2sStart = s.mm2sStart := by
  unfold State.draw; split <;> rfl
@[simp] theorem State.draw_loadCount (s : State) : s.draw.2.loadCount = s.loadCount := by
  unfold State.draw; split <;> rfl
@[simp] theorem State.draw_streamOut (s : State) : s.draw.2.streamOut = s.streamOut := by
  unfold State.draw; split <;> rfl
@[simp] theorem State.draw_streamIn (s : State) : s.draw.2.streamIn = s.streamIn := by
  unfold State.draw; split <;> rfl
@[simp] theorem State.draw_counter (s : State) : s.draw.2.counter = s.counter := by
  unfold State.draw; split <;> rfl
@[simp] theorem State.draw_snap (s : State) : s.draw.2.snap = s.snap := by
  unfold State.draw; split <;> rfl
@[simp] theorem State.draw_wr (s : State) : s.draw.2.wr = s.wr := by
  unfold State.draw; split <;> rfl
@[simp] theorem State.draw_tc (s : State) : s.draw.2.tc = s.tc := by
  unfold State.draw; split <;> rfl
@[simp] theorem State.draw_mem (s : State) : s.draw.2.mem = s.mem := by
  unfold State.draw; split <;> rfl

/-- A draw changes only the two fields that supply answers. -/
theorem State.draw_drawsOnly (s : State) : s.DrawsOnly s.draw.2 := by
  unfold State.DrawsOnly State.draw; split <;> rfl

theorem State.drawsOnly_refl (s : State) : s.DrawsOnly s := rfl

theorem State.DrawsOnly.trans {a b c : State} (h : a.DrawsOnly b) (k : b.DrawsOnly c) : a.DrawsOnly c := by
  unfold State.DrawsOnly at *; rw [k, h]

/-! ### Threads -/

theorem State.tid_of_host {s : State} {t : Nat} (h : s.turn = .host t) : s.tid = t := by
  simp [State.tid, h]

@[simp] theorem State.thread_setThread_same (s : State) {t : Nat} (th : Thread) (h : t < s.threads.length) :
    (s.setThread t th).thread t = th := by
  simp [State.thread, State.setThread, h]

@[simp] theorem State.thread_setThread_ne (s : State) {t u : Nat} (th : Thread) (h : u ≠ t) :
    (s.setThread t th).thread u = s.thread u := by
  simp [State.thread, State.setThread, List.getElem?_set_ne (Ne.symm h)]

@[simp] theorem State.setThread_setThread (s : State) (t : Nat) (a b : Thread) :
    (s.setThread t a).setThread t b = s.setThread t b := by
  simp [State.setThread]

theorem State.setThread_self (s : State) (t : Nat) : s.setThread t (s.thread t) = s := by
  unfold State.setThread State.thread
  congr 1
  by_cases h : t < s.threads.length
  · simp [List.getD_eq_getElem?_getD, h]
  · rw [List.set_eq_of_length_le (by omega)]

@[simp] theorem State.setThread_tid (s : State) (t : Nat) (th : Thread) : (s.setThread t th).tid = s.tid := rfl

@[simp] theorem State.goto_tid (s : State) (i : Instr) (p : Point) : (s.goto i p).tid = s.tid := rfl

/-- `finish` by thread `t` in the words of the claims. -/
theorem State.finished_eq {s : State} {t : Nat} (h : s.turn = .host t) (st : Status) (v0 v1 : Option Word64) :
    s.finished st v0 v1 =
      s.completes t st.code (orKeep v0 (s.thread t).rv0) (orKeep v1 (s.thread t).rv1) := by
  simp [State.finished, State.completes, Thread.finish, State.tid_of_host h]

/-- The result registers that a command replaces do not matter for what its completion leaves. -/
theorem State.completes_putAt {s : State} {t : Nat} (h : t < s.threads.length) (i : Instr) (p : Point) (r : Byte)
    (a b : Option Word64) : (s.putAt t i p).completes t r a b = s.completes t r a b := by
  simp [State.completes, State.putAt, h]

end Sys2Proof.Machine
end

