-- ==== Sys2Proof/Laws/Memory.lean ====
section
/-! SUPPORT. Memory (spec 10 R27): a read after a write, and the canonical form kept by every operation. -/

namespace Sys2Proof.Machine

open Sys2Proof

@[simp] theorem Memory.read_nil (a : Nat) : Memory.read [] a = none := rfl

/-- A write changes the byte it names and no other. -/
theorem Memory.read_write (m : Memory) (a b : Nat) (v : Byte) :
    Memory.read (Memory.write m a v) b = if b = a then some v else Memory.read m b := by
  induction m with
  | nil =>
    by_cases h : b = a
    · simp [Memory.write, Memory.read, h]
    · simp [Memory.write, Memory.read, h, Ne.symm h]
  | cons e rest ih =>
    obtain ⟨x, y⟩ := e
    by_cases h1 : a < x
    · by_cases h : b = a
      · simp [Memory.write, Memory.read, h1, h]
      · simp [Memory.write, Memory.read, h1, h, Ne.symm h]
    · by_cases h2 : a = x
      · subst h2
        by_cases h : b = a
        · simp [Memory.write, Memory.read, h]
        · simp [Memory.write, Memory.read, h, Ne.symm h]
      · simp only [Memory.write, h1, h2, if_false, Memory.read, ih]
        by_cases h : b = a
        · subst h; simp [Ne.symm h2]
        · simp [h]

/-- The bytes stored by a run of writes, and no others, change. -/
theorem Memory.read_writeBytes (data : List Byte) (m : Memory) (a b : Nat) :
    Memory.read (Memory.writeBytes m a data) b =
      if a ≤ b ∧ b < a + data.length then data[b - a]? else Memory.read m b := by
  induction data generalizing m a with
  | nil =>
    have h : ¬ (a ≤ b ∧ b < a + 0) := by omega
    simp [Memory.writeBytes]
  | cons v rest ih =>
    simp only [Memory.writeBytes, ih, Memory.read_write, List.length_cons]
    by_cases h : b = a
    · subst h
      simp
    · by_cases h2 : a + 1 ≤ b ∧ b < a + 1 + rest.length
      · have h3 : a ≤ b ∧ b < a + (rest.length + 1) := by omega
        have h4 : b - a = b - (a + 1) + 1 := by omega
        simp [h2, h3, h4]
      · have h3 : ¬ (a ≤ b ∧ b < a + (rest.length + 1)) := by omega
        simp only [h2, h3, h, if_false]

theorem Memory.above_write {lo : Nat} {m : Memory} {a : Nat} {v : Byte} (h : Memory.above lo m = true) (ha : lo < a) :
    Memory.above lo (Memory.write m a v) = true := by
  induction m generalizing lo with
  | nil => simp [Memory.write, Memory.above, ha]
  | cons e rest ih =>
    obtain ⟨x, y⟩ := e
    simp only [Memory.above, Bool.and_eq_true, decide_eq_true_eq] at h
    by_cases h1 : a < x
    · simp [Memory.write, h1, Memory.above, ha, h.2]
    · by_cases h2 : a = x
      · subst h2; simp [Memory.write, Memory.above, h.1, h.2]
      · simp only [Memory.write, h1, h2, if_false, Memory.above, Bool.and_eq_true, decide_eq_true_eq]
        exact ⟨h.1, ih h.2 (by omega)⟩

/-- A write keeps the canonical form. -/
theorem Memory.wf_write {m : Memory} (h : Memory.wf m = true) (a : Nat) (v : Byte) :
    Memory.wf (Memory.write m a v) = true := by
  cases m with
  | nil => rfl
  | cons e rest =>
    obtain ⟨x, y⟩ := e
    simp only [Memory.wf] at h
    by_cases h1 : a < x
    · simp [Memory.write, h1, Memory.wf, Memory.above, h]
    · by_cases h2 : a = x
      · subst h2; simpa [Memory.write, Memory.wf] using h
      · simp only [Memory.write, h1, h2, if_false, Memory.wf]
        exact Memory.above_write h (by omega)

/-- A run of writes keeps the canonical form. -/
theorem Memory.wf_writeBytes {m : Memory} (h : Memory.wf m = true) (a : Nat) (data : List Byte) :
    Memory.wf (Memory.writeBytes m a data) = true := by
  induction data generalizing m a with
  | nil => exact h
  | cons v rest ih => exact ih (Memory.wf_write h a v) (a + 1)

/-- Replacing one window's memory by a canonical one keeps every window canonical. -/
theorem Windows.wf_set {m : Windows} {x : Memory} (h : m.wf = true) (w : Window) (hx : Memory.wf x = true) :
    (m.set w x).wf = true := by
  simp only [Windows.wf, Bool.and_eq_true] at h
  cases w <;> simp [Windows.set, Windows.wf, h, hx]

theorem Windows.wf_get {m : Windows} (h : m.wf = true) (w : Window) : Memory.wf (m.get w) = true := by
  simp only [Windows.wf, Bool.and_eq_true] at h
  cases w
  · rfl
  · exact h.1.1
  · exact h.1.2
  · exact h.2

theorem Windows.get_set_same (m : Windows) {w : Window} (hw : w ≠ .reg) (x : Memory) : (m.set w x).get w = x := by
  cases w <;> first | rfl | exact absurd rfl hw

theorem Windows.get_set_ne (m : Windows) {w u : Window} (h : u ≠ w) (x : Memory) : (m.set w x).get u = m.get u := by
  cases w <;> cases u <;> first | rfl | exact absurd rfl h

/-- A stored byte reads back, and every other byte of every window reads as before. -/
theorem State.byteAt_storeByte (s : State) {w : Window} (hw : w ≠ .reg) (a : Nat) (v : Byte) (u : Window) (b : Nat) :
    (s.storeByte w a v).byteAt u b = if u = w ∧ b = a then some v else s.byteAt u b := by
  by_cases h : u = w
  · subst h
    simp [State.byteAt, Windows.get_set_same _ hw, Memory.read_write]
  · simp [State.byteAt, Windows.get_set_ne _ h, h]

end Sys2Proof.Machine
end

