-- ==== Sys2Proof/Laws/Bus.lean ====
section
/-! SUPPORT. What the bus steps do (spec 40 R67, R68): the register at an offset, what a read returns, and the cases of a
write. -/

namespace Sys2Proof

theorem find?_of_nodup_map {α β : Type} [DecidableEq β] {l : List α} {f : α → β} (h : (l.map f).Nodup) {a : α}
    (ha : a ∈ l) : l.find? (fun x => f x == f a) = some a := by
  induction l with
  | nil => cases ha
  | cons x rest ih =>
    simp only [List.map_cons, List.nodup_cons, List.mem_map, not_exists, not_and] at h
    rcases List.mem_cons.mp ha with rfl | hr
    · simp
    · have : f x ≠ f a := fun e => h.1 a hr e.symm
      simp [this, ih h.2 hr]

theorem Reg.mem_list (r : Reg) : r ∈ Reg.list := by
  cases r with
  | time k => cases k <;> decide
  | ctrl c => cases c <;> decide
  | status c => cases c <;> decide
  | _ => decide

theorem Chan.mem_list (c : Chan) : c ∈ Chan.list := by cases c <;> decide

theorem Config.wf_regMapOk {cfg : Config} (h : cfg.wf = true) : cfg.regMapOk = true := by
  simp only [Config.wf, Bool.and_eq_true] at h
  exact h.1.1.2

theorem Config.wf_chanOk {cfg : Config} (h : cfg.wf = true) (c : Chan) : cfg.chanOk c = true := by
  simp only [Config.wf, Bool.and_eq_true, List.all_eq_true] at h
  exact h.1.1.1.1.1 c (Chan.mem_list c)

theorem Config.wf_scalarsOk {cfg : Config} (h : cfg.wf = true) : cfg.scalarsOk = true := by
  simp only [Config.wf, Bool.and_eq_true] at h
  exact h.2

theorem Config.wf_readyBits {cfg : Config} (h : cfg.wf = true) : (Chan.list.map cfg.readyBit.get).Nodup := by
  simp only [Config.wf, Bool.and_eq_true, Config.readyBitsOk, decide_eq_true_eq] at h
  exact h.1.2

/-- In a well-formed configuration a register's own offset passes regCheck and names it: the composite commands' bus
steps never raise REG_MISALIGNED or REG_UNMAPPED. -/
theorem Config.regCheck_off {cfg : Config} (h : cfg.wf = true) (r : Reg) : cfg.regCheck (cfg.off r) = .ok r := by
  have h1 := Config.wf_regMapOk h
  simp only [Config.regMapOk, Bool.and_eq_true, List.all_eq_true, decide_eq_true_eq] at h1
  have h2 := h1.1 r (Reg.mem_list r)
  have h3 : cfg.regMap.regAt (cfg.off r) = some r := find?_of_nodup_map h1.2 (Reg.mem_list r)
  unfold Config.regCheck
  rw [if_neg (by omega), if_neg (by omega), h3]

/-- An offset that passes regCheck is the offset of the register that it names. -/
theorem Config.regCheck_ok {cfg : Config} {off : Nat} {r : Reg} (h : cfg.regCheck off = .ok r) : off = cfg.off r := by
  unfold Config.regCheck at h
  split at h
  · cases h
  · split at h
    · cases h
    · split at h
      · cases h
      · next q hq =>
        injection h with h
        subst h
        have := List.find?_some hq
        simpa [Config.off] using (beq_iff_eq.mp this).symm

end Sys2Proof

namespace Sys2Proof.Machine

open Sys2Proof

/-! ## READY_STATUS -/

theorem putBit_getLsbD (v : Half) {n : Nat} (hn : n ≤ 15) (b : Bool) (m : Nat) :
    (putBit v n b).getLsbD m = if m = n then b else v.getLsbD m := by
  have hp : (1#16 <<< n).getLsbD m = decide (m = n) := by
    rw [BitVec.getLsbD_shiftLeft, BitVec.getLsbD_one]
    by_cases h : m = n
    · subst h; simp; omega
    · simp only [h, decide_false]
      by_cases h2 : m < n
      · simp [h2]
      · have : m - n ≠ 0 := by omega
        simp [this]
  unfold putBit
  by_cases h : m = n
  · subst h
    cases b <;> simp [hp]
  · cases b
    · by_cases hm : m < 16
      · simp only [Bool.false_eq_true, if_false, h, BitVec.getLsbD_and, BitVec.getLsbD_not, hp, hm, decide_true,
          decide_false, Bool.not_false, Bool.and_true]
      · simp [h, hm, BitVec.getLsbD_of_ge v m (by omega)]
    · simp [hp, h]

/-- READYc is 1 exactly when `cmplQ[c]` holds an entry (10 R37). -/
theorem readyValue_bit {cfg : Config} (h : cfg.wf = true) (q : PerChan (List Half)) (r : Half) (c : Chan) :
    (readyValue cfg q r).getLsbD (cfg.readyBit.get c) = !(q.get c).isEmpty := by
  have hb : ∀ d, cfg.readyBit.get d ≤ 15 := fun d => by
    have := Config.wf_chanOk h d
    simp only [Config.chanOk, decide_eq_true_eq] at this
    omega
  have hn := Config.wf_readyBits h
  simp only [Chan.list, List.map_cons, List.map_nil, List.nodup_cons, List.mem_cons, List.not_mem_nil, or_false,
    not_or, List.nodup_nil] at hn
  simp only [readyValue, Chan.list, List.foldl_cons, List.foldl_nil]
  rw [putBit_getLsbD _ (hb _), putBit_getLsbD _ (hb _), putBit_getLsbD _ (hb _), putBit_getLsbD _ (hb _)]
  obtain ⟨⟨h01, h02, h03⟩, ⟨h12, h13⟩, h23, -⟩ := hn
  cases c <;> simp [*]

/-! ## Reads -/

/-- A register read takes draws and changes nothing else (20 R46). -/
theorem State.readRegister_drawsOnly (s : State) (r : Reg) : s.DrawsOnly (s.readRegister r).2 := by
  have hd : s.DrawsOnly s.draw16.2 := s.draw_drawsOnly
  have hs : s.DrawsOnly s := s.drawsOnly_refl
  cases r <;> simp only [State.readRegister] <;> first | exact hd | (split <;> first | exact hd | exact hs)

/-- A register read returns one of the values its register may return (10 R29 to R37). -/
theorem State.readRegister_readsAs {s : State} (h : s.cfg.wf = true) (r : Reg) : s.ReadsAs r (s.readRegister r).1 := by
  cases r with
  | sentinel => intro a v e; simp [State.readRegister, e]
  | version => intro a v e; simp [State.readRegister, e]
  | reset => trivial
  | loopback => intro hf l e; simp [State.readRegister, e, hf]
  | time k => intro f e; simp [State.readRegister, e]
  | timeCtrl => trivial
  | ctrl c => trivial
  | status c => intro n rest e; simp [State.readRegister, e]
  | ready =>
    intro c
    simp only [State.readRegister]
    rw [readyValue_bit h]
    cases s.cmplQ.get c <;> simp

theorem State.BusReady.regRead {s : State} (h : s.BusReady) (r : Reg) :
    s.regRead (s.cfg.off r) = .done (s.readRegister r).1 (s.readRegister r).2 := by
  unfold State.regRead
  simp [h.responds, Config.regCheck_off h.wf, h.energized]

theorem State.BusReady.regWrite {s : State} (h : s.BusReady) (r : Reg) (v : Word64) :
    s.regWrite (s.cfg.off r) v = s.writeRegister r (s.cfg.off r) (v.setWidth 16) := by
  unfold State.regWrite
  simp [h.responds, Config.regCheck_off h.wf, h.energized]

/-- The bus steps stay ready across an update that leaves the configuration and `busEnergized` alone. -/
theorem State.BusReady.of_eq {s s' : State} (h : s.BusReady) (hc : s'.cfg = s.cfg)
    (he : s'.busEnergized = s.busEnergized) : s'.BusReady :=
  ⟨hc ▸ h.wf, hc ▸ h.responds, he ▸ h.energized⟩

/-- The two cases of a successful register read: ordinary, or the energising read. -/
theorem State.regRead_done {s s' : State} {off : Nat} {x : Half} (h : s.regRead off = .done x s') :
    s.cfg.fabricResponds = true ∧ ∃ r, s.cfg.regCheck off = .ok r ∧
      ((s.busEnergized = true ∧ x = (s.readRegister r).1 ∧ s' = (s.readRegister r).2) ∨
        (s.busEnergized = false ∧ x = s.draw16.1 ∧ s' = { s.draw16.2 with busEnergized := true })) := by
  unfold State.regRead at h
  split at h
  · next hr =>
    split at h
    · cases h
    · next r hc =>
      refine ⟨hr, r, hc, ?_⟩
      split at h
      · next he => injection h with h1 h2; exact .inl ⟨he, h1.symm, h2.symm⟩
      · next he => injection h with h1 h2; exact .inr ⟨by simpa using he, h1.symm, h2.symm⟩
  · cases h

/-- A successful register write is its register's own write rule. -/
theorem State.regWrite_done {s s' : State} {off : Nat} {v : Word64} (h : s.regWrite off v = .done () s') :
    s.cfg.fabricResponds = true ∧ s.busEnergized = true ∧ ∃ r, s.cfg.regCheck off = .ok r ∧
      s.writeRegister r off (v.setWidth 16) = .done () s' := by
  unfold State.regWrite at h
  split at h
  · next hr =>
    split at h
    · cases h
    · next r hc =>
      split at h
      · next he => exact ⟨hr, he, r, hc, h⟩
      · cases h
  · cases h

/-! ## Writes -/

/-- `u` has the fields of `s` that no register write changes (20 R46). -/
def State.SameBlock (s u : State) : Prop :=
  u.cfg = s.cfg ∧ u.turn = s.turn ∧ u.sched = s.sched ∧ u.threads = s.threads ∧ u.dev = s.dev ∧ u.mapped = s.mapped ∧
    u.busEnergized = s.busEnergized ∧ u.faults = s.faults ∧ u.image = s.image ∧ u.loadCount = s.loadCount ∧
    u.streamOut = s.streamOut ∧ u.streamIn = s.streamIn ∧ u.mem = s.mem

/-- A write of CTRLc: half a descriptor, or a descriptor appended (43 R104). -/
theorem State.writeCtrl_cases {s u : State} {c : Chan} {off : Nat} {v : Half} (h : s.writeCtrl c off v = .done () u) :
    s.resetAsserted = false ∧
      ((c.dir = .mm2s ∧ s.mm2sStart.get c = none ∧ u = { s with mm2sStart := s.mm2sStart.set c (some v) }) ∨
      (∃ first, c.dir = .mm2s ∧ s.mm2sStart.get c = some first ∧ (s.descQ.get c).length ≠ s.cfg.queueDepth.get c ∧
        u = { s with mm2sStart := s.mm2sStart.set c none, descQ := s.descQ.set c (s.descQ.get c ++ [.mm2s first v]) }) ∨
      (c.dir = .s2mm ∧ (s.descQ.get c).length ≠ s.cfg.queueDepth.get c ∧
        u = { s with descQ := s.descQ.set c (s.descQ.get c ++ [.s2mm v]) })) := by
  unfold State.writeCtrl at h
  split at h
  · cases h
  · next hr =>
    refine ⟨by simpa using hr, ?_⟩
    split at h
    · next hd =>
      split at h
      · next hn => injection h with _ h; exact .inl ⟨hd, hn, h.symm⟩
      · next first hf =>
        unfold State.enqueue at h
        split at h
        · cases h
        · next hl => injection h with _ h; exact .inr (.inl ⟨first, hd, hf, hl, h.symm⟩)
    · next hd =>
      unfold State.enqueue at h
      split at h
      · cases h
      · next hl => injection h with _ h; exact .inr (.inr ⟨hd, hl, h.symm⟩)

/-- A write of STATUSc retires the oldest completion, if any (44 R109). -/
theorem State.writeStatus_cases {s u : State} {c : Chan} {off : Nat} {v : Half} (h : s.writeStatus c off v = .done () u) :
    s.resetAsserted = false ∧ v = 0 ∧ u = { s with cmplQ := s.cmplQ.set c (s.cmplQ.get c).tail } := by
  unfold State.writeStatus at h
  split at h
  · cases h
  · next hr =>
    split at h
    · cases h
    · next hv => injection h with _ h; exact ⟨by simpa using hr, not_not.mp hv, h.symm⟩

/-- A write of RESET (40 R70). -/
theorem State.writeReset_cases {s u : State} {off : Nat} {v : Half} (h : s.writeReset off v = .done () u) :
    (v = 1 ∧ u = { s.clearFabric with resetAsserted := true }) ∨ (v = 0 ∧ u = { s with resetAsserted := false }) := by
  unfold State.writeReset at h
  split at h
  · injection h with _ h; exact .inl ⟨‹_›, h.symm⟩
  · split at h
    · injection h with _ h; exact .inr ⟨‹_›, h.symm⟩
    · cases h

/-- Latch-out changes the counter, and takes a draw unless all four fields are written (45 R115). -/
theorem State.latchOut_eq (s : State) :
    s.latchOut = { s with counter := s.latchOut.counter, answers := s.latchOut.answers, drawn := s.latchOut.drawn } := by
  unfold State.latchOut
  split
  · rfl
  · have := s.draw_drawsOnly
    rw [this]

/-- A write of TIME_CTRL changes only the clock's own state, and takes at most a draw (45 R115). -/
theorem State.writeTimeCtrl_eq {s u : State} {off : Nat} {v : Half} (h : s.writeTimeCtrl off v = .done () u) :
    u = { s with
      counter := u.counter, snap := u.snap, wr := u.wr, tc := v, answers := u.answers, drawn := u.drawn } := by
  unfold State.writeTimeCtrl at h
  split at h
  · cases h
  · injection h with _ h
    subst h
    simp only
    split
    · have e := (if latchEdgeActive s.cfg.latchEdge s.tc v s.cfg.latchIn = true then s.latchIn else s).latchOut_eq
      generalize (if latchEdgeActive s.cfg.latchEdge s.tc v s.cfg.latchIn = true then s.latchIn else s).latchOut = w at e ⊢
      rw [e]
      split <;> rfl
    · split <;> rfl

/-- No register write changes the device, the mappings, the threads, the memory windows or the streams (20 R46). -/
theorem State.writeRegister_sameBlock {s u : State} {r : Reg} {off : Nat} {v : Half}
    (h : s.writeRegister r off v = .done () u) : s.SameBlock u := by
  cases r with
  | sentinel => cases h
  | version => cases h
  | ready => cases h
  | reset =>
    rcases State.writeReset_cases h with ⟨-, rfl⟩ | ⟨-, rfl⟩
    · simp [State.SameBlock, State.clearFabric]
    · exact ⟨rfl, rfl, rfl, rfl, rfl, rfl, rfl, rfl, rfl, rfl, rfl, rfl, rfl⟩
  | loopback => injection h with _ h; subst h; exact ⟨rfl, rfl, rfl, rfl, rfl, rfl, rfl, rfl, rfl, rfl, rfl, rfl, rfl⟩
  | time k => injection h with _ h; subst h; exact ⟨rfl, rfl, rfl, rfl, rfl, rfl, rfl, rfl, rfl, rfl, rfl, rfl, rfl⟩
  | timeCtrl =>
    rw [State.writeTimeCtrl_eq h]
    exact ⟨rfl, rfl, rfl, rfl, rfl, rfl, rfl, rfl, rfl, rfl, rfl, rfl, rfl⟩
  | ctrl c =>
    obtain ⟨-, ⟨-, -, rfl⟩ | ⟨first, -, -, -, rfl⟩ | ⟨-, -, rfl⟩⟩ := State.writeCtrl_cases h <;>
      exact ⟨rfl, rfl, rfl, rfl, rfl, rfl, rfl, rfl, rfl, rfl, rfl, rfl, rfl⟩
  | status c =>
    obtain ⟨-, -, rfl⟩ := State.writeStatus_cases h
    exact ⟨rfl, rfl, rfl, rfl, rfl, rfl, rfl, rfl, rfl, rfl, rfl, rfl, rfl⟩

/-! ## Going on from a bus step -/

/-- Every way in which a bus step goes on: it is not enabled and the state stays, it faults, or it is done. -/
theorem State.onAccess_cases {α : Type} {s s' : State} {a : Access α} {k : α → State → Result}
    (h : s.onAccess a k = .next s') :
    (a = .hang ∧ s' = s) ∨ (∃ code info, a = .refuse code info ∧ s' = s.raised code info) ∨
      (∃ v t, a = .done v t ∧ k v t = .next s') := by
  cases a with
  | hang => injection h with h; exact .inl ⟨rfl, h.symm⟩
  | refuse code info => injection h with h; exact .inr (.inl ⟨code, info, rfl, h.symm⟩)
  | done v t => exact .inr (.inr ⟨v, t, rfl, h⟩)

end Sys2Proof.Machine
end

