-- ==== Sys2Proof/Laws/Ring.lean ====
section
/-! SUPPORT. The three table functions (spec 42 R90, R91, R92) and ConstructTables (41 R83) satisfy and keep INV1 to INV5
of 42 R88. -/

namespace Sys2Proof.Machine

open Sys2Proof

/-! ## Ring arithmetic -/

theorem ring_wrap {a n : Nat} (h : a < n + n) : a % n = if a < n then a else a - n := by
  split
  · exact Nat.mod_eq_of_lt ‹_›
  · rw [Nat.mod_eq_sub_mod (by omega), Nat.mod_eq_of_lt (by omega)]

/-- A fresh table satisfies the invariant (41 R83). -/
theorem Table.fresh_inv {n frame : Nat} (hn : 1 ≤ n) : (Table.fresh n frame).Inv n frame where
  slots_length := by simp [Table.fresh]
  lens_length := by simp [Table.fresh]
  head_lt := hn
  tail_lt := hn
  avail_le := le_refl n
  head_eq := by simp [Table.fresh]
  free_from_head j hj := by
    have : j < n := hj
    simp [Table.fresh, Nat.mod_eq_of_lt this, this]
  used_from_tail j hj := by simp [Table.fresh] at hj
  len_le x hx := by simp [Table.fresh] at hx; omega

@[simp] theorem Table.fresh_pendingCount (n frame : Nat) : (Table.fresh n frame).pendingCount = 0 := by
  simp [Table.fresh, Table.pendingCount, List.count_eq_zero, List.mem_replicate]

/-- What AcquireHead does where a frame is available (42 R90). -/
theorem Table.acquireHead_some {t t' : Table} {n h len : Nat} (e : t.acquireHead n = some (h, len, t')) :
    0 < t.avail ∧ h = t.head ∧ len = t.lens.getD t.head 0 ∧
      t' = { t with slots := t.slots.set t.head .inFlight, head := (t.head + 1) % n, avail := t.avail - 1 } := by
  unfold Table.acquireHead at e
  split at e
  · cases e
  · simp only [Option.some.injEq, Prod.mk.injEq] at e
    exact ⟨by omega, e.1.symm, e.2.1.symm, e.2.2.symm⟩

theorem Table.acquireHead_none {t : Table} {n : Nat} : t.acquireHead n = none ↔ t.avail = 0 := by
  unfold Table.acquireHead; split <;> simp_all

/-- The number of PENDING slots after one slot changes. -/
theorem count_set_pending {l : List Slot} {i : Nat} {a b : Slot} (h : l[i]? = some a) :
    (l.set i b).count .pending + (if a = .pending then 1 else 0) = l.count .pending + (if b = .pending then 1 else 0) := by
  induction l generalizing i with
  | nil => simp at h
  | cons x rest ih =>
    cases i with
    | zero =>
      simp only [List.getElem?_cons_zero, Option.some.injEq] at h
      subst h
      simp only [List.set_cons_zero, List.count_cons, beq_iff_eq]
      omega
    | succ i =>
      simp only [List.getElem?_cons_succ] at h
      have := ih h
      simp only [List.set_cons_succ, List.count_cons]
      omega

/-- The number of PENDING slots as a number of positions. -/
theorem count_eq_card (l : List Slot) :
    l.count .pending = ((Finset.range l.length).filter fun i => l[i]? = some .pending).card := by
  induction l using List.reverseRecOn with
  | nil => rfl
  | append_singleton l x ih =>
    rw [List.count_append, List.length_append, List.length_singleton, Finset.range_add_one, Finset.filter_insert, ih]
    have hsame : (Finset.range l.length).filter (fun i => (l ++ [x])[i]? = some .pending) =
        (Finset.range l.length).filter fun i => l[i]? = some .pending := by
      apply Finset.filter_congr
      intro i hi
      rw [List.getElem?_append_left (Finset.mem_range.mp hi)]
    rw [hsame]
    by_cases hx : x = .pending
    · subst hx; simp
    · have : ([x] : List Slot).count .pending = 0 := by simp [hx]
      simp [hx, this]

variable {t : Table} {n frame : Nat}

/-- The position `j` places after the tail, as a position after the head. -/
theorem Table.Inv.head_pos (h : t.Inv n frame) {j : Nat} (hj : n - t.avail ≤ j) :
    (t.tail + j) % n = (t.head + (j - (n - t.avail))) % n := by
  have h1 := h.avail_le
  rw [h.head_eq, Nat.mod_add_mod]
  congr 1; omega

/-- No more slots are PENDING than are in use. -/
theorem Table.Inv.pending_le (h : t.Inv n frame) : t.pendingCount ≤ n - t.avail := by
  have ha := h.avail_le
  have ht := h.tail_lt
  unfold Table.pendingCount
  rw [count_eq_card, h.slots_length, ← Finset.card_range (n - t.avail)]
  refine Finset.card_le_card_of_injOn (fun i => (i + n - t.tail) % n) ?_ ?_
  · intro i hi
    simp only [Finset.coe_filter, Finset.mem_range, Set.mem_ofPred_eq] at hi
    simp only [Finset.coe_range, Set.mem_Iio]
    by_contra hc
    have hlt : (i + n - t.tail) % n < n := Nat.mod_lt _ (by omega)
    have hpos : (t.tail + (i + n - t.tail) % n) % n = i := by
      rw [Nat.add_mod_mod, show t.tail + (i + n - t.tail) = i + n by omega, Nat.add_mod_right, Nat.mod_eq_of_lt hi.1]
    have hfree := h.free_from_head ((i + n - t.tail) % n - (n - t.avail)) (by omega)
    rw [← h.head_pos (by omega), hpos, hi.2] at hfree
    cases hfree
  · intro i hi k hk e
    simp only [Finset.coe_filter, Finset.mem_range, Set.mem_ofPred_eq] at hi hk
    simp only at e
    have h1 : (t.tail + (i + n - t.tail) % n) % n = i := by
      rw [Nat.add_mod_mod, show t.tail + (i + n - t.tail) = i + n by omega, Nat.add_mod_right, Nat.mod_eq_of_lt hi.1]
    have h2 : (t.tail + (k + n - t.tail) % n) % n = k := by
      rw [Nat.add_mod_mod, show t.tail + (k + n - t.tail) = k + n by omega, Nat.add_mod_right, Nat.mod_eq_of_lt hk.1]
    rw [← h1, ← h2, e]

/-- Two positions of the ring less than a round apart are equal only when they are the same. -/
theorem ring_inj {a n i j : Nat} (hi : i < n) (hj : j < n) (e : (a + i) % n = (a + j) % n) : i = j := by
  have := (Nat.ModEq.add_left_cancel' a (show a + i ≡ a + j [MOD n] from e))
  exact Nat.ModEq.eq_of_lt_of_lt this hi hj

/-- AcquireHead keeps the invariant, and leaves the PENDING slots as they are. -/
theorem Table.Inv.acquire (h : t.Inv n frame) (ha : 0 < t.avail) :
    ({ t with slots := t.slots.set t.head .inFlight, head := (t.head + 1) % n, avail := t.avail - 1 } : Table).Inv n frame
      ∧ (t.slots.set t.head Slot.inFlight).count .pending = t.pendingCount := by
  have hal := h.avail_le
  have hh := h.head_lt
  have hfree : t.slots[t.head]? = some .free := by
    simpa [Nat.mod_eq_of_lt hh] using h.free_from_head 0 ha
  have hcount : (t.slots.set t.head Slot.inFlight).count .pending = t.pendingCount := by
    simpa [Table.pendingCount] using count_set_pending (b := .inFlight) hfree
  have hheadpos : (t.tail + (n - t.avail)) % n = t.head := by
    rw [h.head_eq]; congr 1; omega
  refine ⟨?_, hcount⟩
  constructor
  · simp [h.slots_length]
  · simp [h.lens_length]
  · exact Nat.mod_lt _ (by omega)
  · exact h.tail_lt
  · show t.avail - 1 ≤ n; omega
  · show (t.head + 1) % n = (t.tail + n - (t.avail - 1)) % n
    rw [h.head_eq, Nat.mod_add_mod]; congr 1; omega
  · intro j hj
    have hj' : j < t.avail - 1 := hj
    show (t.slots.set t.head .inFlight)[((t.head + 1) % n + j) % n]? = some .free
    have e : ((t.head + 1) % n + j) % n = (t.head + (j + 1)) % n := by rw [Nat.mod_add_mod]; congr 1; omega
    have hne : t.head ≠ (t.head + (j + 1)) % n := by
      intro hc
      have := ring_inj (a := t.head) (n := n) (i := 0) (j := j + 1) (by omega) (by omega)
        (by rw [Nat.add_zero, Nat.mod_eq_of_lt hh]; exact hc)
      omega
    rw [e, List.getElem?_set_ne hne]
    exact h.free_from_head (j + 1) (by omega)
  · intro j hj
    have hj' : j < n - (t.avail - 1) := hj
    have hp := h.pending_le
    show (t.slots.set t.head .inFlight)[(t.tail + j) % n]? =
      some (if j < (t.slots.set t.head Slot.inFlight).count .pending then .pending else .inFlight)
    rw [hcount]
    by_cases hlast : j = n - t.avail
    · subst hlast
      rw [hheadpos, if_neg (by omega), List.getElem?_set_self (by rw [h.slots_length]; exact hh)]
    · have hne : t.head ≠ (t.tail + j) % n := by
        intro hc
        rw [← hheadpos] at hc
        exact hlast (ring_inj (by omega) (by omega) hc).symm
      rw [List.getElem?_set_ne hne]
      exact h.used_from_tail j (by omega)
  · exact h.len_le

/-- A release without a fault is of the slot just behind the PENDING ones (42 R91). -/
theorem Table.releaseFault_none {c : Chan} {k : Nat} (e : t.releaseFault c n k = none) :
    k < n ∧ t.slots[k]? = some .inFlight ∧ k = (t.tail + t.pendingCount) % n := by
  unfold Table.releaseFault Table.firstInFlight at e
  split at e
  · cases e
  · split at e
    · cases e
    · split at e
      · cases e
      · exact ⟨by omega, by simpa using ‹¬ t.slots[k]? ≠ some .inFlight›, by simpa using ‹¬ k ≠ _›⟩

/-- MarkReleased makes one more slot PENDING. -/
theorem Table.setPending_count {k : Nat} (e : t.slots[k]? = some .inFlight) :
    (t.setPending k).pendingCount = t.pendingCount + 1 := by
  simpa [Table.setPending, Table.pendingCount] using count_set_pending (b := .pending) e

/-- MarkReleased keeps the invariant. -/
theorem Table.Inv.release (h : t.Inv n frame) {c : Chan} {k : Nat} (e : t.releaseFault c n k = none) :
    (t.setPending k).Inv n frame := by
  obtain ⟨hk, hin, hpos⟩ := Table.releaseFault_none e
  have hp := h.pending_le
  have hal := h.avail_le
  have hlt : t.pendingCount < n - t.avail := by
    by_contra hc
    have heq : t.pendingCount = n - t.avail := by omega
    by_cases h0 : t.avail = 0
    · have h1 := h.used_from_tail 0 (by omega)
      rw [Nat.add_zero, Nat.mod_eq_of_lt h.tail_lt, if_pos (by omega)] at h1
      rw [hpos, heq, h0, Nat.sub_zero, Nat.add_mod_right, Nat.mod_eq_of_lt h.tail_lt, h1] at hin
      cases hin
    · have h1 := h.free_from_head 0 (by omega)
      rw [← show n - t.avail - (n - t.avail) = 0 by omega, ← h.head_pos (le_refl _), ← heq, ← hpos, hin] at h1
      cases h1
  have hcount := Table.setPending_count hin
  constructor
  · simp [Table.setPending, h.slots_length]
  · exact h.lens_length
  · exact h.head_lt
  · exact h.tail_lt
  · exact h.avail_le
  · exact h.head_eq
  · intro j hj
    have hne : k ≠ (t.head + j) % n := by
      intro hc
      have := h.free_from_head j hj
      rw [← hc, hin] at this
      cases this
    simp only [Table.setPending]
    rw [List.getElem?_set_ne hne]
    exact h.free_from_head j hj
  · intro j hj
    rw [hcount]
    simp only [Table.setPending]
    by_cases hj2 : j = t.pendingCount
    · subst hj2
      rw [← hpos, List.getElem?_set_self (by rw [h.slots_length]; exact hk), if_pos (by omega)]
    · have hne : k ≠ (t.tail + j) % n := by
        intro hc
        rw [hpos] at hc
        have hj3 : j < n - t.avail := hj
        exact hj2 (ring_inj (by omega) (by omega) hc).symm
      rw [List.getElem?_set_ne hne, h.used_from_tail j hj]
      congr 1
      by_cases hj4 : j < t.pendingCount
      · rw [if_pos hj4, if_pos (by omega)]
      · rw [if_neg hj4, if_neg (by omega)]
  · exact h.len_le

/-- A completion mark without a fault (42 R92). -/
theorem Table.markFault_none {c : Chan} {bytes : Nat} (e : t.markFault c n frame bytes = none) :
    t.avail ≠ n ∧ t.slots[t.tail]? = some .pending ∧ bytes ≤ frame := by
  unfold Table.markFault at e
  split at e
  · cases e
  · next ha =>
    split at e
    · next hs =>
      split at e
      · cases e
      · exact ⟨ha, hs, by omega⟩
    all_goals cases e

/-- MarkTail makes one slot less PENDING. -/
theorem Table.markTail_count {bytes : Nat} (e : t.slots[t.tail]? = some .pending) :
    (t.markTail n bytes).pendingCount + 1 = t.pendingCount := by
  simpa [Table.markTail, Table.pendingCount] using count_set_pending (b := .free) e

/-- MarkTail keeps the invariant. -/
theorem Table.Inv.mark (h : t.Inv n frame) {c : Chan} {bytes : Nat} (e : t.markFault c n frame bytes = none) :
    (t.markTail n bytes).Inv n frame := by
  obtain ⟨hne, hpend, hb⟩ := Table.markFault_none e
  have hcount := Table.markTail_count (n := n) (bytes := bytes) hpend
  have hal := h.avail_le
  have ht := h.tail_lt
  have hfreepos : (t.head + t.avail) % n = t.tail := by
    rw [h.head_eq, Nat.mod_add_mod, show t.tail + n - t.avail + t.avail = t.tail + n by omega, Nat.add_mod_right,
      Nat.mod_eq_of_lt ht]
  constructor
  · simp [Table.markTail, h.slots_length]
  · simp [Table.markTail, h.lens_length]
  · exact h.head_lt
  · exact Nat.mod_lt _ (by omega)
  · show t.avail + 1 ≤ n; omega
  · show t.head = ((t.tail + 1) % n + n - (t.avail + 1)) % n
    rw [h.head_eq, show (t.tail + 1) % n + n - (t.avail + 1) = (t.tail + 1) % n + (n - (t.avail + 1)) by omega,
      Nat.mod_add_mod]
    congr 1; omega
  · intro j hj
    have hj' : j < t.avail + 1 := hj
    show (t.slots.set t.tail .free)[(t.head + j) % n]? = some .free
    by_cases hj2 : j = t.avail
    · subst hj2
      rw [hfreepos, List.getElem?_set_self (by rw [h.slots_length]; exact ht)]
    · have hne2 : t.tail ≠ (t.head + j) % n := by
        intro hc
        rw [← hfreepos] at hc
        exact hj2 (ring_inj (by omega) (by omega) hc).symm
      rw [List.getElem?_set_ne hne2]
      exact h.free_from_head j (by omega)
  · intro j hj
    have hj' : j < n - (t.avail + 1) := hj
    have e2 : ((t.tail + 1) % n + j) % n = (t.tail + (j + 1)) % n := by rw [Nat.mod_add_mod]; congr 1; omega
    have hne2 : t.tail ≠ (t.tail + (j + 1)) % n := by
      intro hc
      have := ring_inj (a := t.tail) (n := n) (i := 0) (j := j + 1) (by omega) (by omega)
        (by rw [Nat.add_zero, Nat.mod_eq_of_lt ht]; exact hc)
      omega
    show (t.slots.set t.tail .free)[((t.tail + 1) % n + j) % n]? = _
    rw [e2, List.getElem?_set_ne hne2, h.used_from_tail (j + 1) (by omega)]
    congr 1
    by_cases hj4 : j + 1 < t.pendingCount
    · rw [if_pos hj4, if_pos (by omega)]
    · rw [if_neg hj4, if_neg (by omega)]
  · intro x hx
    rcases List.mem_or_eq_of_mem_set hx with hx | rfl
    · exact h.len_le x hx
    · exact hb

end Sys2Proof.Machine
end

