-- ==== Sys2Proof/Laws/Control.lean ====
section
/-! SUPPORT. One inversion lemma per shared operation over the running thread (spec 60 R121, R122; 44 R110; 42 R90 to R92):
if it answers a next state, then one of the listed cases holds. -/

namespace Sys2Proof.Machine

open Sys2Proof

variable {s s' : State} {i : Instr}

/-! ## Starting, and the check of later steps -/

/-- The entry step either faults or starts the command (60 R121). -/
theorem State.start_cases {check : Option (FaultCode × FaultInfo)} (h : s.start i check = .next s') :
    (∃ code info, check = some (code, info) ∧ s' = s.raised code info) ∨ (check = none ∧ s' = s.goto i .start) := by
  unfold State.start at h
  split at h
  · next code info => injection h with h; exact .inl ⟨code, info, rfl, h.symm⟩
  · injection h with h; exact .inr ⟨rfl, h.symm⟩

/-- What the entry check of a command other than OPEN and CLOSE lets pass (60 R121 steps 3 and 4). -/
theorem State.entryCheck_none (h : s.entryCheck i = none) :
    (∃ tables, s.dev = .opened tables) ∧ ∀ c, i.ownedChan = some c → s.tid = s.cfg.owner.get c := by
  unfold State.entryCheck at h
  split at h
  · cases h
  · cases h
  · next tables hd =>
    refine ⟨⟨tables, hd⟩, fun c hc => ?_⟩
    rw [hc] at h
    by_contra hn
    simp [hn] at h

theorem State.entryCheckOpen_none (h : s.entryCheckOpen = none) : s.tid = 0 ∧ s.dev = .closed := by
  unfold State.entryCheckOpen at h
  split at h
  · cases h
  · next ht => split at h <;> first | exact ⟨not_not.mp ht, ‹_›⟩ | cases h

theorem State.entryCheckClose_none (h : s.entryCheckClose = none) : s.tid = 0 ∧ ∃ tables, s.dev = .opened tables := by
  unfold State.entryCheckClose at h
  split at h
  · cases h
  · next ht => split at h <;> first | exact ⟨not_not.mp ht, _, ‹_›⟩ | cases h

/-- Every step of a command other than OPEN and CLOSE: its entry step, a later step with the device OPEN, or the fault
of a later step without it or after a CLOSE (60 R122). -/
theorem State.commandStep_cases {body : PerChan Table → Point → Result} (h : s.commandStep i body = .next s') :
    (s.current = none ∧ s.start i (s.entryCheck i) = .next s') ∨
    (∃ p tables, s.current = some ⟨i, p⟩ ∧ s.dev = .opened tables ∧ body tables p = .next s') ∨
    s' = s.raised .notOpen (.opcode i.opcode) := by
  unfold State.commandStep at h
  split at h
  · exact .inl ⟨‹_›, h⟩
  · next r hr =>
    obtain ⟨j, p⟩ := r
    split at h
    · next hi =>
      simp only at hi
      subst hi
      split at h
      · injection h with h; exact .inr (.inr h.symm)
      · split at h
        · exact .inr (.inl ⟨p, _, hr, ‹_›, h⟩)
        all_goals injection h with h; exact .inr (.inr h.symm)
    · cases h

/-- A command with one program point after its entry step. -/
theorem State.simpleStep_cases {body : PerChan Table → Result} (h : s.simpleStep i body = .next s') :
    (s.current = none ∧ s.start i (s.entryCheck i) = .next s') ∨
    (∃ tables, s.current = some ⟨i, .start⟩ ∧ s.dev = .opened tables ∧ body tables = .next s') ∨
    s' = s.raised .notOpen (.opcode i.opcode) := by
  rcases State.commandStep_cases h with h | ⟨p, tables, hc, hd, hb⟩ | h
  · exact .inl h
  · cases p <;> first | cases hb | exact .inr (.inl ⟨tables, hc, hd, hb⟩)
  · exact .inr (.inr h)

/-- Every step of OPEN or CLOSE. -/
theorem State.lifecycleStep_cases {check : Option (FaultCode × FaultInfo)} {body : Point → Result}
    (h : s.lifecycleStep i check body = .next s') :
    (s.current = none ∧ s.start i check = .next s') ∨ (∃ p, s.current = some ⟨i, p⟩ ∧ body p = .next s') := by
  unfold State.lifecycleStep at h
  split at h
  · exact .inl ⟨‹_›, h⟩
  · next r hr =>
    obtain ⟨j, p⟩ := r
    split at h
    · next hi =>
      simp only at hi
      subst hi
      exact .inr ⟨p, hr, h⟩
    · cases h

/-! ## Register reads as a step -/

/-- `u` is `s` after a register read: draws taken, and the bus perhaps energised (40 R67). -/
def State.Reads (s u : State) : Prop :=
  u = { s with answers := u.answers, drawn := u.drawn, busEnergized := u.busEnergized } ∧
    (s.busEnergized = true → u.busEnergized = true)

theorem State.DrawsOnly.reads {u : State} (h : s.DrawsOnly u) : s.Reads u := by
  constructor
  · rw [h]
  · intro e; rw [h]; exact e

theorem State.Reads.frame {u : State} (h : s.Reads u) :
    u.cfg = s.cfg ∧ u.turn = s.turn ∧ u.sched = s.sched ∧ u.threads = s.threads ∧ u.dev = s.dev ∧ u.mapped = s.mapped ∧
      u.faults = s.faults ∧ u.image = s.image ∧ u.loopback = s.loopback ∧ u.resetAsserted = s.resetAsserted ∧
      u.descQ = s.descQ ∧ u.cmplQ = s.cmplQ ∧ u.mm2sStart = s.mm2sStart ∧ u.loadCount = s.loadCount ∧
      u.streamOut = s.streamOut ∧ u.streamIn = s.streamIn ∧ u.counter = s.counter ∧ u.snap = s.snap ∧ u.wr = s.wr ∧
      u.tc = s.tc ∧ u.mem = s.mem := by
  rw [h.1]; simp

/-- What a register read that is done leaves, and the value it gives on an energised bus. -/
theorem State.regRead_reads {off : Nat} {x : Half} {u : State} (h : s.regRead off = .done x u) :
    s.Reads u ∧ u.busEnergized = true ∧
      ∃ r, s.cfg.regCheck off = .ok r ∧ (s.busEnergized = true → x = (s.readRegister r).1) := by
  obtain ⟨-, r, hr, ⟨he, hx, rfl⟩ | ⟨he, -, rfl⟩⟩ := State.regRead_done h
  · have hd := s.readRegister_drawsOnly r
    refine ⟨hd.reads, ?_, r, hr, fun _ => hx⟩
    rw [hd]; exact he
  · have hd : s.DrawsOnly s.draw16.2 := s.draw_drawsOnly
    refine ⟨⟨?_, fun _ => rfl⟩, rfl, r, hr, fun e => ?_⟩
    · rw [hd]
    · rw [he] at e; cases e

/-- Going on from a register read. -/
theorem State.onRegRead_cases {off : Nat} {k : Half → State → Result} (h : s.onAccess (s.regRead off) k = .next s') :
    s' = s ∨ (∃ code info, s' = s.raised code info) ∨
      ∃ x u, s.Reads u ∧ u.busEnergized = true ∧
        (∃ r, s.cfg.regCheck off = .ok r ∧ (s.busEnergized = true → x = (s.readRegister r).1)) ∧ k x u = .next s' := by
  rcases State.onAccess_cases h with ⟨-, e⟩ | ⟨code, info, -, e⟩ | ⟨x, u, ha, hk⟩
  · exact .inl e
  · exact .inr (.inl ⟨code, info, e⟩)
  · obtain ⟨h1, h2, h3⟩ := State.regRead_reads ha
    exact .inr (.inr ⟨x, u, h1, h2, h3, hk⟩)

/-- Going on from a register write. -/
theorem State.onRegWrite_cases {off : Nat} {v : Word64} {k : Unit → State → Result}
    (h : s.onAccess (s.regWrite off v) k = .next s') :
    s' = s ∨ (∃ code info, s' = s.raised code info) ∨
      ∃ u r, s.busEnergized = true ∧ s.cfg.regCheck off = .ok r ∧ s.writeRegister r off (v.setWidth 16) = .done () u ∧
        k () u = .next s' := by
  rcases State.onAccess_cases h with ⟨-, e⟩ | ⟨code, info, -, e⟩ | ⟨x, u, ha, hk⟩
  · exact .inl e
  · exact .inr (.inl ⟨code, info, e⟩)
  · obtain ⟨-, h2, r, h3, h4⟩ := State.regWrite_done ha
    exact .inr (.inr ⟨u, r, h2, h3, h4, hk⟩)

/-! ## The table functions as steps -/

/-- The table after AcquireHead where a frame is available (42 R90). -/
abbrev Table.acquired (t : Table) (n : Nat) : Table :=
  { t with slots := t.slots.set t.head .inFlight, head := (t.head + 1) % n, avail := t.avail - 1 }

/-- AcquireHead and its `finish`: nothing available, or the head slot claimed. -/
theorem State.acquireAndFinish_cases {tables : PerChan Table} {c : Chan} {st : Status}
    (h : s.acquireAndFinish tables c st = .next s') :
    ((tables.get c).avail = 0 ∧ s' = s.finished st (some minusOne) (some 0)) ∨
    (0 < (tables.get c).avail ∧
      s' = (s.setTable tables c ((tables.get c).acquired (s.cfg.capacity.get c))).finished .ok
        (some (BitVec.ofNat 64 (tables.get c).head))
        (some (BitVec.ofNat 64 ((tables.get c).lens.getD (tables.get c).head 0)))) := by
  unfold State.acquireAndFinish at h
  split at h
  · next e => injection h with h; exact .inl ⟨Table.acquireHead_none.mp e, h.symm⟩
  · next hh len t e =>
    obtain ⟨ha, rfl, rfl, rfl⟩ := Table.acquireHead_some e
    injection h with h
    exact .inr ⟨ha, h.symm⟩

/-- MarkReleased: a fault, or the slot PENDING (42 R91). -/
theorem State.markReleased_cases {tables : PerChan Table} {c : Chan} {n : Nat} {k : State → Result}
    (h : s.markReleased tables c n k = .next s') :
    (∃ code info, s' = s.raised code info) ∨
    ((tables.get c).releaseFault c (s.cfg.capacity.get c) n = none ∧
      k (s.setTable tables c ((tables.get c).setPending n)) = .next s') := by
  unfold State.markReleased at h
  split at h
  · injection h with h; exact .inl ⟨_, _, h.symm⟩
  · exact .inr ⟨‹_›, h⟩

/-- MarkTail: a fault, or the tail slot FREE with its length recorded (42 R92). -/
theorem State.markTail_cases {tables : PerChan Table} {c : Chan} {n : Nat} {k : Table → State → Result}
    (h : s.markTail tables c n k = .next s') :
    (∃ code info, s' = s.raised code info) ∨
    ((tables.get c).markFault c (s.cfg.capacity.get c) (s.cfg.frameBytes.get c) n = none ∧
      k ((tables.get c).markTail (s.cfg.capacity.get c) n)
        (s.setTable tables c ((tables.get c).markTail (s.cfg.capacity.get c) n)) = .next s') := by
  unfold State.markTail at h
  split at h
  · injection h with h; exact .inl ⟨_, _, h.symm⟩
  · exact .inr ⟨‹_›, h⟩

/-! ## DrainChannel -/

/-- Every step of DrainChannel (44 R110). -/
theorem State.drainStep_cases {c : Chan} {tables : PerChan Table} {d : DrainPoint} {done : Nat → State → Result}
    (h : s.drainStep i c tables d done = .next s') :
    s' = s ∨ (∃ code info, s' = s.raised code info) ∨
    (∃ n u, d = .ready n ∧ s.Reads u ∧ (s.cfg.wf = true → s.busEnergized = true → s.cmplQ.get c ≠ []) ∧
      ((c.dir = .mm2s ∧ s' = u.goto i (.drain (.mark n (s.cfg.frameBytes.get c)))) ∨
        (c.dir = .s2mm ∧ s' = u.goto i (.drain (.status n))))) ∨
    (∃ n u, d = .ready n ∧ s.Reads u ∧ done n u = .next s') ∨
    (∃ n x u, d = .status n ∧ s.Reads u ∧ s' = u.goto i (.drain (.mark n x))) ∨
    (∃ n amount, d = .mark n amount ∧
      (tables.get c).markFault c (s.cfg.capacity.get c) (s.cfg.frameBytes.get c) amount = none ∧
      s' = (s.setTable tables c ((tables.get c).markTail (s.cfg.capacity.get c) amount)).goto i (.drain (.ack n))) ∨
    (∃ n u, d = .ack n ∧ s.regWrite (s.cfg.off (.status c)) 0 = .done () u ∧ s' = u.goto i (.drain (.ready (n + 1)))) := by
  cases d with
  | ready n =>
    rcases State.onRegRead_cases h with e | e | ⟨x, u, hu, -, ⟨r, hr, hx⟩, hk⟩
    · exact .inl e
    · exact .inr (.inl e)
    · split at hk
      · next hb =>
        refine .inr (.inr (.inl ⟨n, u, rfl, hu, fun hwf he => ?_, ?_⟩))
        · rw [Config.regCheck_off hwf] at hr
          cases hr
          have := State.readRegister_readsAs hwf .ready c
          rw [← hx he] at this
          exact this.mp hb
        · split at hk <;> injection hk with hk
          · exact .inl ⟨‹_›, hk.symm⟩
          · exact .inr ⟨‹_›, hk.symm⟩
      · exact .inr (.inr (.inr (.inl ⟨n, u, rfl, hu, hk⟩)))
  | status n =>
    rcases State.onRegRead_cases h with e | e | ⟨x, u, hu, -, -, hk⟩
    · exact .inl e
    · exact .inr (.inl e)
    · injection hk with hk
      exact .inr (.inr (.inr (.inr (.inl ⟨n, _, u, rfl, hu, hk.symm⟩))))
  | mark n amount =>
    have h : s.markTail tables c amount (fun _ s1 => .next (s1.goto i (.drain (.ack n)))) = .next s' := h
    rcases State.markTail_cases h with e | ⟨hf, hk⟩
    · exact .inr (.inl e)
    · injection hk with hk
      exact .inr (.inr (.inr (.inr (.inr (.inl ⟨n, amount, rfl, hf, hk.symm⟩)))))
  | ack n =>
    rcases State.onAccess_cases h with ⟨-, e⟩ | ⟨code, info, -, e⟩ | ⟨x, u, ha, hk⟩
    · exact .inl e
    · exact .inr (.inl ⟨code, info, e⟩)
    · injection hk with hk
      exact .inr (.inr (.inr (.inr (.inr (.inr ⟨n, u, rfl, ha, hk.symm⟩)))))

/-! ## The choice of the next agent -/

/-- `schedule` chooses the next agent and changes nothing else (10 R14). -/
theorem State.schedule_eq (s : State) :
    s.schedule = { s with turn := s.schedule.turn, sched := s.schedule.sched, drawn := s.schedule.drawn } := by
  unfold State.schedule
  split
  · rfl
  · split
    · rfl
    · split <;> rfl

@[simp] theorem State.schedule_cfg (s : State) : s.schedule.cfg = s.cfg := by rw [State.schedule_eq]
@[simp] theorem State.schedule_threads (s : State) : s.schedule.threads = s.threads := by rw [State.schedule_eq]
@[simp] theorem State.schedule_thread (s : State) (t : Nat) : s.schedule.thread t = s.thread t := by
  simp [State.thread]
@[simp] theorem State.schedule_dev (s : State) : s.schedule.dev = s.dev := by rw [State.schedule_eq]
@[simp] theorem State.schedule_mapped (s : State) : s.schedule.mapped = s.mapped := by rw [State.schedule_eq]
@[simp] theorem State.schedule_busEnergized (s : State) : s.schedule.busEnergized = s.busEnergized := by
  rw [State.schedule_eq]
@[simp] theorem State.schedule_faults (s : State) : s.schedule.faults = s.faults := by rw [State.schedule_eq]
@[simp] theorem State.schedule_descQ (s : State) : s.schedule.descQ = s.descQ := by rw [State.schedule_eq]
@[simp] theorem State.schedule_cmplQ (s : State) : s.schedule.cmplQ = s.cmplQ := by rw [State.schedule_eq]
@[simp] theorem State.schedule_mm2sStart (s : State) : s.schedule.mm2sStart = s.mm2sStart := by rw [State.schedule_eq]
@[simp] theorem State.schedule_streamOut (s : State) : s.schedule.streamOut = s.streamOut := by rw [State.schedule_eq]
@[simp] theorem State.schedule_streamIn (s : State) : s.schedule.streamIn = s.streamIn := by rw [State.schedule_eq]
@[simp] theorem State.schedule_mem (s : State) : s.schedule.mem = s.mem := by rw [State.schedule_eq]

/-- A step of the machine is a step of the agent whose turn it is, in a machine without a fault and with a well-formed
configuration, and the choice of the next agent. -/
theorem step_next (h : step s = .next s') :
    s.faults = [] ∧ s.configOk = true ∧ ∃ u, agentStep s = .next u ∧ s' = u.schedule := by
  unfold step at h
  split at h
  · cases h
  · next hf =>
    split at h
    · cases h
    · next hc =>
      split at h
      · next u hu => injection h with h; exact ⟨not_not.mp hf, by simpa using hc, u, hu, h.symm⟩
      · cases h
      · cases h

end Sys2Proof.Machine
end

