-- ==== Sys2Proof/Laws/Encoding.lean ====
section
/-! SUPPORT. The fields of a packed command word (spec 30 R58), and the operands read back from them. -/

namespace Sys2Proof

@[simp] theorem fieldOp_packWord (op ch : BitVec 8) (a : Half) (b : Word64) : fieldOp (packWord op ch a b) = op := by
  unfold fieldOp packWord
  ext i hi
  simp only [BitVec.getElem_extractLsb', BitVec.getLsbD_append]
  have h1 : ¬ 120 + i < 64 := by omega
  have h2 : ¬ 120 + i - 64 < 32 := by omega
  have h3 : ¬ 120 + i - 64 - 32 < 16 := by omega
  have h4 : ¬ 120 + i - 64 - 32 - 16 < 8 := by omega
  have h5 : 120 + i - 64 - 32 - 16 - 8 = i := by omega
  simp only [h1, h2, h3, h4, if_false, h5]
  simp [hi]

@[simp] theorem fieldCh_packWord (op ch : BitVec 8) (a : Half) (b : Word64) : fieldCh (packWord op ch a b) = ch := by
  unfold fieldCh packWord
  ext i hi
  simp only [BitVec.getElem_extractLsb', BitVec.getLsbD_append]
  have h1 : ¬ 112 + i < 64 := by omega
  have h2 : ¬ 112 + i - 64 < 32 := by omega
  have h3 : ¬ 112 + i - 64 - 32 < 16 := by omega
  have h4 : 112 + i - 64 - 32 - 16 < 8 := by omega
  have h5 : 112 + i - 64 - 32 - 16 = i := by omega
  simp only [h1, h2, h3, if_false, h5]
  simp [hi]

@[simp] theorem fieldA_packWord (op ch : BitVec 8) (a : Half) (b : Word64) : fieldA (packWord op ch a b) = a := by
  unfold fieldA packWord
  ext i hi
  simp only [BitVec.getElem_extractLsb', BitVec.getLsbD_append]
  have h1 : ¬ 96 + i < 64 := by omega
  have h2 : ¬ 96 + i - 64 < 32 := by omega
  have h5 : 96 + i - 64 - 32 = i := by omega
  simp only [h1, h2, if_false, h5]
  simp [hi]

@[simp] theorem fieldZ_packWord (op ch : BitVec 8) (a : Half) (b : Word64) : fieldZ (packWord op ch a b) = 0 := by
  unfold fieldZ packWord
  ext i hi
  simp only [BitVec.getElem_extractLsb', BitVec.getLsbD_append]
  have h1 : ¬ 64 + i < 64 := by omega
  simp only [h1, if_false]
  have h2 : 64 + i - 64 < 32 := by omega
  rw [if_pos h2]
  simp

@[simp] theorem fieldB_packWord (op ch : BitVec 8) (a : Half) (b : Word64) : fieldB (packWord op ch a b) = b := by
  unfold fieldB packWord
  ext i hi
  simp only [BitVec.getElem_extractLsb', BitVec.getLsbD_append]
  simp [hi]

/-- A channel operand is read back. -/
@[simp] theorem chanOfField_field (c : Chan) : chanOfField c.field = c := by cases c <;> rfl

/-- A window operand is read back. -/
theorem windowOfField_field {w : Window} (h : w.isMemory = true) : windowOfField w.field = some w := by
  cases w
  · cases h
  all_goals rfl

end Sys2Proof
end

