-- ==== Sys2Proof/Laws/Moves.lean ====
section
/-! SUPPORT. Every way in which one step of a command answers a next state, as one list (spec 40 to 45, 60 R121, R122):
`exec_move` says that the list is complete, and invariants are proved by cases over it. -/

namespace Sys2Proof.Machine

open Sys2Proof

/-- The command of a thread that runs DrainChannel(c) (43 R100, R101; 44 R112). -/
def Instr.drains (i : Instr) (c : Chan) : Prop :=
  i = .pollDrain c ∨ i = .chTryAcquire c ∨ ∃ us, i = .chAcquire c us

/-- The table and channel commands that only read the tables. -/
def Instr.queries (i : Instr) (c : Chan) : Prop :=
  i = .tblNumAvail c ∨ i = .tblAcqHead c ∨ (∃ h, i = .tblOffset c h) ∨ (∃ h, i = .tblBuff c h) ∨ i = .tblBpf c ∨
    ∃ h, i = .chBuffer c h

/-- The state after a successful OPEN's last step from `u` (41 R82 to R84). -/
def State.openEnd (u : State) (loaded : Bool) : State :=
  { u with mapped := { u.mapped with test := false }, dev := .opened (Config.freshTables u.cfg) }.finished .ok
    (some (if loaded then 1 else 0)) (some 0)

/-- The windows after the TEST mapping step from `u` (41 R82). -/
def State.testMapped (u : State) : State := { u with mapped := u.mapped.add .test }.clearWindow .test

/-- Every next state of one step of a command. -/
inductive State.Move (s : State) : Instr → State → Prop
  /-- a fault: the record is appended and nothing else changes (60 R126) -/
  | halt (i code info) : s.Move i (s.raised code info)
  /-- a bus step that is not enabled (40 R66), or OPEN waiting for the load (41 R80) -/
  | stay (i) : s.Move i s
  /-- the entry step of a command other than OPEN and CLOSE (60 R121) -/
  | enter (i tables) (h : s.current = none) (hl : i.isLifecycle = false) (hd : s.dev = .opened tables)
      (ho : ∀ c, i.ownedChan = some c → s.tid = s.cfg.owner.get c) : s.Move i (s.goto i .start)
  /-- the entry step of OPEN -/
  | enterOpen (hash seed) (h : s.current = none) (ht : s.tid = 0) (hd : s.dev = .closed) :
      s.Move (.openDev hash seed) (s.goto (.openDev hash seed) .start)
  /-- the entry step of CLOSE -/
  | enterClose (tables) (h : s.current = none) (ht : s.tid = 0) (hd : s.dev = .opened tables) :
      s.Move .closeDev (s.goto .closeDev .start)
  /-- REG_RD (40 R73) -/
  | regRd (off tables u x) (h : s.current = some ⟨.regRd off, .start⟩) (hd : s.dev = .opened tables)
      (hu : s.Reads u) : s.Move (.regRd off) (u.finished .ok (some x) none)
  /-- REG_WR (40 R74) -/
  | regWr (off value tables r u) (h : s.current = some ⟨.regWr off value, .start⟩) (hd : s.dev = .opened tables)
      (hr : s.cfg.regCheck off.toNat = .ok r) (hu : s.writeRegister r off.toNat (value.setWidth 16) = .done () u) :
      s.Move (.regWr off value) (u.finished .ok none none)
  /-- MEM_RD8 (40 R75) -/
  | memRd8 (w a tables u x) (h : s.current = some ⟨.memRd8 w a, .start⟩) (hd : s.dev = .opened tables)
      (hu : s.DrawsOnly u) : s.Move (.memRd8 w a) (u.finished .ok (some x) none)
  /-- MEM_WR8 (40 R76) -/
  | memWr8 (w a b tables) (h : s.current = some ⟨.memWr8 w a b, .start⟩) (hd : s.dev = .opened tables)
      (hw : w ≠ .reg) : s.Move (.memWr8 w a b) ((s.storeByte w a.toNat b).finished .ok none none)
  /-- a command that only reads the tables (42 R93, R94, R97 to R99; 43 R103) -/
  | query (i c tables st v0 v1) (hi : Instr.queries i c) (h : s.current = some ⟨i, .start⟩)
      (hd : s.dev = .opened tables) : s.Move i (s.finished st v0 v1)
  /-- TBL_ACQ_HEAD with a frame available (42 R94) -/
  | acqHead (c tables v0 v1) (h : s.current = some ⟨.tblAcqHead c, .start⟩) (hd : s.dev = .opened tables)
      (ha : 0 < (tables.get c).avail) :
      s.Move (.tblAcqHead c) ((s.setTable tables c ((tables.get c).acquired (s.cfg.capacity.get c))).finished .ok v0 v1)
  /-- TBL_MARK_REL (42 R95) -/
  | markRel (c h tables) (hc : s.current = some ⟨.tblMarkRel c h, .start⟩) (hd : s.dev = .opened tables)
      (hf : (tables.get c).releaseFault c (s.cfg.capacity.get c) h.toNat = none) :
      s.Move (.tblMarkRel c h) ((s.setTable tables c ((tables.get c).setPending h.toNat)).finished .ok none none)
  /-- TBL_MARK_TAIL (42 R96) -/
  | markTail (c bytes tables v0) (hc : s.current = some ⟨.tblMarkTail c bytes, .start⟩) (hd : s.dev = .opened tables)
      (hf : (tables.get c).markFault c (s.cfg.capacity.get c) (s.cfg.frameBytes.get c) bytes.toNat = none) :
      s.Move (.tblMarkTail c bytes)
        ((s.setTable tables c ((tables.get c).markTail (s.cfg.capacity.get c) bytes.toNat)).finished .ok v0 none)
  /-- a drain's READY read that sees a completion (44 R110) -/
  | drainSeen (i c tables p q u n) (hi : Instr.drains i c) (h : s.current = some ⟨i, p⟩) (hd : s.dev = .opened tables)
      (hp : p = .start ∨ p = .drain (.ready n)) (hu : s.Reads u) (hne : s.busEnergized = true → s.cmplQ.get c ≠ [])
      (hq : (∃ amount, q = .drain (.mark n amount)) ∨ q = .drain (.status n)) : s.Move i (u.goto i q)
  /-- a drain's STATUS read -/
  | drainStatus (i c tables u n x) (hi : Instr.drains i c) (h : s.current = some ⟨i, .drain (.status n)⟩)
      (hd : s.dev = .opened tables) (hu : s.Reads u) : s.Move i (u.goto i (.drain (.mark n x)))
  /-- a drain's MarkTail -/
  | drainMark (i c tables n amount) (hi : Instr.drains i c) (h : s.current = some ⟨i, .drain (.mark n amount)⟩)
      (hd : s.dev = .opened tables)
      (hf : (tables.get c).markFault c (s.cfg.capacity.get c) (s.cfg.frameBytes.get c) amount = none) :
      s.Move i ((s.setTable tables c ((tables.get c).markTail (s.cfg.capacity.get c) amount)).goto i (.drain (.ack n)))
  /-- a drain's acknowledgement -/
  | drainAck (i c tables n) (hi : Instr.drains i c) (h : s.current = some ⟨i, .drain (.ack n)⟩)
      (hd : s.dev = .opened tables) (hr : s.resetAsserted = false) :
      s.Move i ({ s with cmplQ := s.cmplQ.set c (s.cmplQ.get c).tail }.goto i (.drain (.ready (n + 1))))
  /-- the end of a drain that claims no frame: POLL_DRAIN's finish, or nothing available -/
  | drainEnd (i c tables p u n st v0 v1) (hi : Instr.drains i c) (h : s.current = some ⟨i, p⟩)
      (hd : s.dev = .opened tables) (hp : p = .start ∨ p = .drain (.ready n)) (hu : s.Reads u) :
      s.Move i (u.finished st v0 v1)
  /-- the end of a drain that claims the head slot (43 R100, R101) -/
  | drainAcquire (i c tables p u n v0 v1) (hi : Instr.drains i c) (hne : i ≠ .pollDrain c) (h : s.current = some ⟨i, p⟩)
      (hd : s.dev = .opened tables) (hp : p = .start ∨ p = .drain (.ready n)) (hu : s.Reads u)
      (ha : 0 < (tables.get c).avail) :
      s.Move i ((u.setTable tables c ((tables.get c).acquired (s.cfg.capacity.get c))).finished .ok v0 v1)
  /-- CH_ACQUIRE's deadline test that is not expired (43 R100) -/
  | drainWait (c us tables p u n) (h : s.current = some ⟨.chAcquire c us, p⟩) (hd : s.dev = .opened tables)
      (hp : p = .start ∨ p = .drain (.ready n)) (hu : s.Reads u) :
      s.Move (.chAcquire c us) (u.goto (.chAcquire c us) .wait)
  /-- CH_ACQUIRE's `wait` -/
  | waited (c us tables) (h : s.current = some ⟨.chAcquire c us, .wait⟩) (hd : s.dev = .opened tables) :
      s.Move (.chAcquire c us) (s.goto (.chAcquire c us) (.drain (.ready 0)))
  /-- CH_RELEASE's checks and MarkReleased (43 R102) -/
  | relMark (c h length tables) (hc : s.current = some ⟨.chRelease c h length, .start⟩) (hd : s.dev = .opened tables)
      (hf : (tables.get c).releaseFault c (s.cfg.capacity.get c) h.toNat = none) :
      s.Move (.chRelease c h length)
        ((s.setTable tables c ((tables.get c).setPending h.toNat)).goto (.chRelease c h length) .relStart)
  /-- CH_RELEASE's start offset on an MM2S channel -/
  | relFirst (c h length tables u) (hc : s.current = some ⟨.chRelease c h length, .relStart⟩)
      (hd : s.dev = .opened tables) (hm : c.dir = .mm2s)
      (hu : s.writeCtrl c (s.cfg.off (.ctrl c)) ((s.releaseFirst c h).setWidth 16) = .done () u) :
      s.Move (.chRelease c h length) (u.goto (.chRelease c h length) .relEnd)
  /-- CH_RELEASE's start offset on an S2MM channel -/
  | relOnly (c h length tables u) (hc : s.current = some ⟨.chRelease c h length, .relStart⟩)
      (hd : s.dev = .opened tables) (hm : c.dir = .s2mm)
      (hu : s.writeCtrl c (s.cfg.off (.ctrl c)) ((s.releaseFirst c h).setWidth 16) = .done () u) :
      s.Move (.chRelease c h length) (u.finished .ok none none)
  /-- CH_RELEASE's end offset -/
  | relSecond (c h length tables u) (hc : s.current = some ⟨.chRelease c h length, .relEnd⟩)
      (hd : s.dev = .opened tables)
      (hu : s.writeCtrl c (s.cfg.off (.ctrl c)) ((s.releaseLast c h length).setWidth 16) = .done () u) :
      s.Move (.chRelease c h length) (u.finished .ok none none)
  /-- a clock command's write, with another step after it (45 R117, R118) -/
  | clkWrite (i tables p q r v u)
      (hi : (i = .clkGet ∧ ∃ x, q = .clkGet x) ∨ ∃ ns, i = .clkSet ns ∧ ∃ x, q = .clkSet x)
      (h : s.current = some ⟨i, p⟩) (hd : s.dev = .opened tables) (hr : r = .timeCtrl ∨ ∃ k, r = .time k)
      (hu : s.writeRegister r (s.cfg.off r) v = .done () u) : s.Move i (u.goto i q)
  /-- CLK_GET's field read, with another step after it -/
  | clkRead (tables p q u) (h : s.current = some ⟨.clkGet, p⟩) (hd : s.dev = .opened tables) (hu : s.Reads u) :
      s.Move .clkGet (u.goto .clkGet (.clkGet q))
  /-- the end of CLK_GET -/
  | clkGot (tables p u v0 v1) (h : s.current = some ⟨.clkGet, p⟩) (hd : s.dev = .opened tables) (hu : s.Reads u) :
      s.Move .clkGet (u.finished .ok v0 v1)
  /-- the end of CLK_SET -/
  | clkDone (ns tables p v u v0) (h : s.current = some ⟨.clkSet ns, p⟩) (hd : s.dev = .opened tables)
      (hu : s.writeRegister .timeCtrl (s.cfg.off .timeCtrl) v = .done () u) :
      s.Move (.clkSet ns) (u.finished .ok v0 none)
  /-- CLOSE (41 R85) -/
  | close (h : s.current = some ⟨.closeDev, .start⟩) :
      s.Move .closeDev (s.cutOff.unwind.finished .ok none none)
  /-- OPEN's first step (41 R84) -/
  | openStart (hash seed) (h : s.current = some ⟨.openDev hash seed, .start⟩) :
      s.Move (.openDev hash seed)
        ({ s with dev := .opening }.goto (.openDev hash seed) (.opening (.map .node)))
  /-- a mapping step that succeeds (41 R78) -/
  | openMap (hash seed m u) (h : s.current = some ⟨.openDev hash seed, .opening (.map m)⟩) (hu : s.DrawsOnly u) :
      s.Move (.openDev hash seed) ((u.mapDone m).goto (.openDev hash seed) (.opening m.after))
  /-- a fatal end of OPEN (41 R77) -/
  | openFail (hash seed p u st v0 v1) (h : s.current = some ⟨.openDev hash seed, .opening p⟩) (hu : s.Reads u) :
      s.Move (.openDev hash seed) (u.unwind.finished st v0 v1)
  /-- a register read of OPEN (41 R79, R81) -/
  | openRead (hash seed p q u) (h : s.current = some ⟨.openDev hash seed, .opening p⟩) (hu : s.Reads u)
      (he : u.busEnergized = true) (hm : q.mapped = p.mapped) (hq : q.energised = true)
      (ha : q.afterReset = p.afterReset) : s.Move (.openDev hash seed) (u.goto (.openDev hash seed) (.opening q))
  /-- a register write of OPEN (41 R79, R81); before the reset pulse the only one is the pulse itself -/
  | openWrite (hash seed p q r v u) (h : s.current = some ⟨.openDev hash seed, .opening p⟩) (he : s.busEnergized = true)
      (hr : r = .reset ∨ r = .loopback) (hu : s.writeRegister r (s.cfg.off r) v = .done () u)
      (hm : q.mapped = p.mapped) (hq : q.energised = true)
      (ha : p.afterReset = true ∨ (r = .reset ∧ v = 1)) (hqa : q.afterReset = true) :
      s.Move (.openDev hash seed) (u.goto (.openDev hash seed) (.opening q))
  /-- the TEST mapping step, with a byte to write after it (41 R82) -/
  | openTest (hash seed loaded u) (h : s.current = some ⟨.openDev hash seed, .opening (.mapTest loaded)⟩)
      (hu : s.DrawsOnly u) :
      s.Move (.openDev hash seed) (u.testMapped.goto (.openDev hash seed) (.opening (.memWrite loaded 0)))
  /-- the TEST mapping step of an empty window -/
  | openTestEnd (hash seed loaded u) (h : s.current = some ⟨.openDev hash seed, .opening (.mapTest loaded)⟩)
      (hu : s.DrawsOnly u) : s.Move (.openDev hash seed) (u.testMapped.openEnd loaded)
  /-- a write of the memory self-test -/
  | openMemWrite (hash seed loaded k b q)
      (h : s.current = some ⟨.openDev hash seed, .opening (.memWrite loaded k)⟩)
      (hq : (∃ j, q = .memWrite loaded j) ∨ ∃ j, q = .memRead loaded j) :
      s.Move (.openDev hash seed) ((s.storeByte .test k b).goto (.openDev hash seed) (.opening q))
  /-- the last write of the memory self-test, where no byte is read -/
  | openMemWriteEnd (hash seed loaded k b)
      (h : s.current = some ⟨.openDev hash seed, .opening (.memWrite loaded k)⟩) :
      s.Move (.openDev hash seed) ((s.storeByte .test k b).openEnd loaded)
  /-- a read of the memory self-test -/
  | openMemRead (hash seed loaded k j u)
      (h : s.current = some ⟨.openDev hash seed, .opening (.memRead loaded k)⟩) (hu : s.DrawsOnly u) :
      s.Move (.openDev hash seed) (u.goto (.openDev hash seed) (.opening (.memRead loaded j)))
  /-- the last read of the memory self-test -/
  | openMemReadEnd (hash seed loaded k u)
      (h : s.current = some ⟨.openDev hash seed, .opening (.memRead loaded k)⟩) (hu : s.DrawsOnly u) :
      s.Move (.openDev hash seed) (u.openEnd loaded)

variable {s s' : State}

/-! ## Reads and writes of a named register -/

theorem State.regWriteAt_cases (hwf : s.cfg.wf = true) {r : Reg} {v : Word64} {k : Unit → State → Result}
    (h : s.onAccess (s.regWrite (s.cfg.off r) v) k = .next s') :
    s' = s ∨ (∃ code info, s' = s.raised code info) ∨
      ∃ u, s.busEnergized = true ∧ s.writeRegister r (s.cfg.off r) (v.setWidth 16) = .done () u ∧ k () u = .next s' := by
  rcases State.onRegWrite_cases h with e | e | ⟨u, r', he, hr, hu, hk⟩
  · exact .inl e
  · exact .inr (.inl e)
  · rw [Config.regCheck_off hwf] at hr
    cases hr
    exact .inr (.inr ⟨u, he, hu, hk⟩)

/-- Going on from a checked frame-memory access (20 R44). -/
theorem State.checked_cases {α : Type} {tables : PerChan Table} {w : Window} {a : Nat} {acc : Access α}
    {k : α → State → Result} (h : s.onAccess (s.checked tables w a acc) k = .next s') :
    s' = s ∨ (∃ code info, s' = s.raised code info) ∨
      (s.memCheck tables w a = none ∧ s.onAccess acc k = .next s') := by
  unfold State.checked at h
  split at h
  · split at h
    · injection h with h; exact .inr (.inl ⟨_, _, h.symm⟩)
    · exact .inr (.inr ⟨‹_›, h⟩)
  · injection h with h; exact .inl h.symm

/-- A memory read takes draws and changes nothing else (40 R72). -/
theorem State.onMemRead_cases {w : Window} {a : Nat} {k : Byte → State → Result}
    (h : s.onAccess (s.memRead w a) k = .next s') :
    s' = s ∨ ∃ x u, s.DrawsOnly u ∧ k x u = .next s' := by
  unfold State.memRead at h
  split at h
  · split at h
    · exact .inr ⟨_, _, s.draw_drawsOnly, h⟩
    · split at h
      · exact .inr ⟨_, _, s.drawsOnly_refl, h⟩
      · exact .inr ⟨_, _, s.draw_drawsOnly, h⟩
  · injection h with h; exact .inl h.symm

theorem State.onMemWrite_cases {w : Window} {a : Nat} {v : Byte} {k : Unit → State → Result}
    (h : s.onAccess (s.memWrite w a v) k = .next s') :
    s' = s ∨ k () (s.storeByte w a v) = .next s' := by
  unfold State.memWrite at h
  split at h
  · exact .inr h
  · injection h with h; exact .inl h.symm

theorem State.memCheck_none {tables : PerChan Table} {w : Window} {a : Nat} (h : s.memCheck tables w a = none) :
    w ≠ .reg := by
  rintro rfl
  simp [State.memCheck] at h

theorem State.DrawsOnly.frame {u : State} (h : s.DrawsOnly u) : u.cfg = s.cfg ∧ u.dev = s.dev ∧ u.turn = s.turn := by
  rw [h]; exact ⟨rfl, rfl, rfl⟩

/-- Where the entry step of a command other than OPEN and CLOSE leads. -/
theorem State.start_move {i : Instr} (hl : i.isLifecycle = false) (hn : s.current = none)
    (h : s.start i (s.entryCheck i) = .next s') : s.Move i s' := by
  rcases State.start_cases h with ⟨code, info, -, rfl⟩ | ⟨hc, rfl⟩
  · exact .halt _ _ _
  · obtain ⟨⟨tables, hd⟩, ho⟩ := State.entryCheck_none hc
    exact .enter i tables hn hl hd ho

/-- Where AcquireHead after a drain leads. -/
theorem State.acquire_move {i : Instr} {c : Chan} {tables : PerChan Table} {p : Point} {u : State} {n : Nat} {st : Status}
    (hi : Instr.drains i c) (hne : i ≠ .pollDrain c) (hc : s.current = some ⟨i, p⟩) (hd : s.dev = .opened tables)
    (hp : p = .start ∨ p = .drain (.ready n)) (hu : s.Reads u) (h : u.acquireAndFinish tables c st = .next s') :
    s.Move i s' := by
  rcases State.acquireAndFinish_cases h with ⟨-, rfl⟩ | ⟨ha, rfl⟩
  · exact .drainEnd i c tables p u n _ _ _ hi hc hd hp hu
  · rw [hu.frame.1]
    exact .drainAcquire i c tables p u n _ _ hi hne hc hd hp hu ha

/-- Where a step of DrainChannel leads, given where the step after its last READY read leads. -/
theorem State.drain_move (hwf : s.cfg.wf = true) {i : Instr} {c : Chan} {tables : PerChan Table} {p : Point}
    {d : DrainPoint} {done : Nat → State → Result} (hi : Instr.drains i c) (hc : s.current = some ⟨i, p⟩)
    (hd : s.dev = .opened tables) (hp : (p = .start ∧ d = .ready 0) ∨ p = .drain d)
    (hdone : ∀ n u, d = .ready n → s.Reads u → done n u = .next s' → s.Move i s')
    (h : s.drainStep i c tables d done = .next s') : s.Move i s' := by
  have hready : ∀ n, d = .ready n → p = .start ∨ p = .drain (.ready n) := by
    rintro n rfl
    rcases hp with ⟨rfl, -⟩ | rfl
    · exact .inl rfl
    · exact .inr rfl
  have hother : (∀ n, d ≠ .ready n) → p = .drain d := by
    intro hn
    rcases hp with ⟨-, rfl⟩ | e
    · exact absurd rfl (hn 0)
    · exact e
  rcases State.drainStep_cases h with rfl | ⟨code, info, rfl⟩ | ⟨n, u, hn, hu, hne, hq⟩ | ⟨n, u, hn, hu, hk⟩ |
    ⟨n, x, u, rfl, hu, rfl⟩ | ⟨n, amount, rfl, hf, rfl⟩ | ⟨n, u, rfl, ha, rfl⟩
  · exact .stay _
  · exact .halt _ _ _
  · rcases hq with ⟨-, rfl⟩ | ⟨-, rfl⟩
    · exact .drainSeen i c tables p _ u n hi hc hd (hready n hn) hu (hne hwf) (.inl ⟨_, rfl⟩)
    · exact .drainSeen i c tables p _ u n hi hc hd (hready n hn) hu (hne hwf) (.inr rfl)
  · exact hdone n u hn hu hk
  · cases hother (by simp)
    exact .drainStatus i c tables u n x hi hc hd hu
  · cases hother (by simp)
    exact .drainMark i c tables n amount hi hc hd hf
  · cases hother (by simp)
    obtain ⟨-, -, r, hr, hw⟩ := State.regWrite_done ha
    rw [Config.regCheck_off hwf] at hr
    cases hr
    simp only [State.writeRegister, State.writeStatus] at hw
    split at hw
    · cases hw
    · next hreset =>
      split at hw
      · cases hw
      · injection hw with _ hw
        subst hw
        exact .drainAck i c tables n hi hc hd (by simpa using hreset)

theorem drainBool_reads {u : State} (h : s.Reads u) : s.Reads u.drawBool.2 := by
  have hd : u.DrawsOnly u.drawBool.2 := u.draw_drawsOnly
  refine ⟨?_, fun e => ?_⟩
  · rw [hd, h.1]
  · rw [hd]; exact h.2 e

/-! ## One lemma per command -/

theorem execRegRd_move {off : Half} (h : execRegRd off s = .next s') : s.Move (.regRd off) s' := by
  rcases State.simpleStep_cases h with ⟨hn, h⟩ | ⟨tables, hc, hd, h⟩ | rfl
  · exact State.start_move rfl hn h
  · rcases State.onRegRead_cases h with rfl | ⟨code, info, rfl⟩ | ⟨x, u, hu, -, -, hk⟩
    · exact .stay _
    · exact .halt _ _ _
    · injection hk with hk
      subst hk
      exact .regRd off tables u _ hc hd hu
  · exact .halt _ _ _

theorem execRegWr_move {off : Half} {value : Word64} (h : execRegWr off value s = .next s') :
    s.Move (.regWr off value) s' := by
  rcases State.simpleStep_cases h with ⟨hn, h⟩ | ⟨tables, hc, hd, h⟩ | rfl
  · exact State.start_move rfl hn h
  · rcases State.onRegWrite_cases h with rfl | ⟨code, info, rfl⟩ | ⟨u, r, -, hr, hu, hk⟩
    · exact .stay _
    · exact .halt _ _ _
    · injection hk with hk
      subst hk
      exact .regWr off value tables r u hc hd hr hu
  · exact .halt _ _ _

theorem execMemRd8_move {w : Window} {a : Word64} (h : execMemRd8 w a s = .next s') : s.Move (.memRd8 w a) s' := by
  rcases State.simpleStep_cases h with ⟨hn, h⟩ | ⟨tables, hc, hd, h⟩ | rfl
  · exact State.start_move rfl hn h
  · rcases State.checked_cases h with rfl | ⟨code, info, rfl⟩ | ⟨-, h⟩
    · exact .stay _
    · exact .halt _ _ _
    · rcases State.onMemRead_cases h with rfl | ⟨x, u, hu, hk⟩
      · exact .stay _
      · injection hk with hk
        subst hk
        exact .memRd8 w a tables u _ hc hd hu
  · exact .halt _ _ _

theorem execMemWr8_move {w : Window} {a : Word64} {b : Byte} (h : execMemWr8 w a b s = .next s') :
    s.Move (.memWr8 w a b) s' := by
  rcases State.simpleStep_cases h with ⟨hn, h⟩ | ⟨tables, hc, hd, h⟩ | rfl
  · exact State.start_move rfl hn h
  · rcases State.checked_cases h with rfl | ⟨code, info, rfl⟩ | ⟨hm, h⟩
    · exact .stay _
    · exact .halt _ _ _
    · rcases State.onMemWrite_cases h with rfl | hk
      · exact .stay _
      · injection hk with hk
        subst hk
        exact .memWr8 w a b tables hc hd (State.memCheck_none hm)
  · exact .halt _ _ _

theorem execTblNumAvail_move {c : Chan} (h : execTblNumAvail c s = .next s') : s.Move (.tblNumAvail c) s' := by
  rcases State.simpleStep_cases h with ⟨hn, h⟩ | ⟨tables, hc, hd, h⟩ | rfl
  · exact State.start_move rfl hn h
  · injection h with h
    subst h
    exact .query _ c tables _ _ _ (.inl rfl) hc hd
  · exact .halt _ _ _

theorem execTblAcqHead_move {c : Chan} (h : execTblAcqHead c s = .next s') : s.Move (.tblAcqHead c) s' := by
  rcases State.simpleStep_cases h with ⟨hn, h⟩ | ⟨tables, hc, hd, h⟩ | rfl
  · exact State.start_move rfl hn h
  · rcases State.acquireAndFinish_cases h with ⟨-, rfl⟩ | ⟨ha, rfl⟩
    · exact .query _ c tables _ _ _ (.inr (.inl rfl)) hc hd
    · exact .acqHead c tables _ _ hc hd ha
  · exact .halt _ _ _

theorem execTblMarkRel_move {c : Chan} {n : Half} (h : execTblMarkRel c n s = .next s') :
    s.Move (.tblMarkRel c n) s' := by
  rcases State.simpleStep_cases h with ⟨hn, h⟩ | ⟨tables, hc, hd, h⟩ | rfl
  · exact State.start_move rfl hn h
  · rcases State.markReleased_cases h with ⟨code, info, rfl⟩ | ⟨hf, hk⟩
    · exact .halt _ _ _
    · injection hk with hk
      subst hk
      exact .markRel c n tables hc hd hf
  · exact .halt _ _ _

theorem execTblMarkTail_move {c : Chan} {n : Word64} (h : execTblMarkTail c n s = .next s') :
    s.Move (.tblMarkTail c n) s' := by
  rcases State.simpleStep_cases h with ⟨hn, h⟩ | ⟨tables, hc, hd, h⟩ | rfl
  · exact State.start_move rfl hn h
  · rcases State.markTail_cases h with ⟨code, info, rfl⟩ | ⟨hf, hk⟩
    · exact .halt _ _ _
    · injection hk with hk
      subst hk
      exact .markTail c n tables _ hc hd hf
  · exact .halt _ _ _

theorem execTblOffset_move {c : Chan} {n : Half} (h : execTblOffset c n s = .next s') : s.Move (.tblOffset c n) s' := by
  rcases State.simpleStep_cases h with ⟨hn, h⟩ | ⟨tables, hc, hd, h⟩ | rfl
  · exact State.start_move rfl hn h
  · split at h
    · injection h with h; subst h; exact .halt _ _ _
    · injection h with h
      subst h
      exact .query _ c tables _ _ _ (.inr (.inr (.inl ⟨n, rfl⟩))) hc hd
  · exact .halt _ _ _

theorem execTblBuff_move {c : Chan} {n : Half} (h : execTblBuff c n s = .next s') : s.Move (.tblBuff c n) s' := by
  rcases State.simpleStep_cases h with ⟨hn, h⟩ | ⟨tables, hc, hd, h⟩ | rfl
  · exact State.start_move rfl hn h
  · split at h
    · injection h with h; subst h; exact .halt _ _ _
    · injection h with h
      subst h
      exact .query _ c tables _ _ _ (.inr (.inr (.inr (.inl ⟨n, rfl⟩)))) hc hd
  · exact .halt _ _ _

theorem execTblBpf_move {c : Chan} (h : execTblBpf c s = .next s') : s.Move (.tblBpf c) s' := by
  rcases State.simpleStep_cases h with ⟨hn, h⟩ | ⟨tables, hc, hd, h⟩ | rfl
  · exact State.start_move rfl hn h
  · injection h with h
    subst h
    exact .query _ c tables _ _ _ (.inr (.inr (.inr (.inr (.inl rfl))))) hc hd
  · exact .halt _ _ _

theorem execChBuffer_move {c : Chan} {n : Half} (h : execChBuffer c n s = .next s') : s.Move (.chBuffer c n) s' := by
  rcases State.simpleStep_cases h with ⟨hn, h⟩ | ⟨tables, hc, hd, h⟩ | rfl
  · exact State.start_move rfl hn h
  · split at h
    · injection h with h; subst h; exact .halt _ _ _
    · injection h with h
      subst h
      exact .query _ c tables _ _ _ (.inr (.inr (.inr (.inr (.inr ⟨n, rfl⟩))))) hc hd
  · exact .halt _ _ _

theorem execPollDrain_move (hwf : s.cfg.wf = true) {c : Chan} (h : execPollDrain c s = .next s') :
    s.Move (.pollDrain c) s' := by
  unfold execPollDrain State.drainCommand at h
  rcases State.commandStep_cases h with ⟨hn, h⟩ | ⟨p, tables, hc, hd, h⟩ | rfl
  · exact State.start_move rfl hn h
  · have hi : Instr.drains (.pollDrain c) c := .inl rfl
    have hend : ∀ n u, (p = .start ∨ p = .drain (.ready n)) → s.Reads u →
        u.finish2 .ok (BitVec.ofNat 64 n) (BitVec.ofNat 64 (tables.get c).avail) = .next s' →
        s.Move (.pollDrain c) s' := by
      intro n u hp hu hk
      injection hk with hk
      subst hk
      exact .drainEnd _ c tables p u n _ _ _ hi hc hd hp hu
    cases p with
    | start => exact State.drain_move hwf hi hc hd (.inl ⟨rfl, rfl⟩) (fun n u hn => hend n u (.inl rfl)) h
    | drain d => exact State.drain_move hwf hi hc hd (.inr rfl) (fun n u hn => hend n u (.inr (by rw [hn]))) h
    | _ => cases h
  · exact .halt _ _ _

theorem execChTryAcquire_move (hwf : s.cfg.wf = true) {c : Chan} (h : execChTryAcquire c s = .next s') :
    s.Move (.chTryAcquire c) s' := by
  unfold execChTryAcquire State.drainCommand at h
  rcases State.commandStep_cases h with ⟨hn, h⟩ | ⟨p, tables, hc, hd, h⟩ | rfl
  · exact State.start_move rfl hn h
  · have hi : Instr.drains (.chTryAcquire c) c := .inr (.inl rfl)
    cases p with
    | start =>
      exact State.drain_move hwf hi hc hd (.inl ⟨rfl, rfl⟩)
        (fun n u _ hu hk => State.acquire_move (n := n) hi (by simp) hc hd (.inl rfl) hu hk) h
    | drain d =>
      exact State.drain_move hwf hi hc hd (.inr rfl)
        (fun n u hn hu hk => State.acquire_move (n := n) hi (by simp) hc hd (.inr (by rw [hn])) hu hk) h
    | _ => cases h
  · exact .halt _ _ _

theorem execChAcquire_move (hwf : s.cfg.wf = true) {c : Chan} {us : Word64} (h : execChAcquire c us s = .next s') :
    s.Move (.chAcquire c us) s' := by
  unfold execChAcquire at h
  rcases State.commandStep_cases h with ⟨hn, h⟩ | ⟨p, tables, hc, hd, h⟩ | rfl
  · exact State.start_move rfl hn h
  · have hi : Instr.drains (.chAcquire c us) c := .inr (.inr ⟨us, rfl⟩)
    have hend : ∀ n u, (p = .start ∨ p = .drain (.ready n)) → s.Reads u →
        u.acquireOrWait (.chAcquire c us) c us tables = .next s' → s.Move (.chAcquire c us) s' := by
      intro n u hp hu hk
      unfold State.acquireOrWait at hk
      split at hk
      · exact State.acquire_move (n := n) hi (by simp) hc hd hp hu hk
      · split at hk
        · injection hk with hk
          subst hk
          exact .drainEnd _ c tables p u n _ _ _ hi hc hd hp hu
        · split at hk
          · injection hk with hk
            subst hk
            exact .drainEnd _ c tables p _ n _ _ _ hi hc hd hp (drainBool_reads hu)
          · injection hk with hk
            subst hk
            exact .drainWait c us tables p _ n hc hd hp (drainBool_reads hu)
    cases p with
    | start => exact State.drain_move hwf hi hc hd (.inl ⟨rfl, rfl⟩) (fun n u hn => hend n u (.inl rfl)) h
    | drain d => exact State.drain_move hwf hi hc hd (.inr rfl) (fun n u hn => hend n u (.inr (by rw [hn]))) h
    | wait =>
      injection h with h
      subst h
      exact .waited c us tables hc hd
    | _ => cases h
  · exact .halt _ _ _

theorem execChRelease_move (hwf : s.cfg.wf = true) {c : Chan} {n : Half} {length : Word64}
    (h : execChRelease c n length s = .next s') : s.Move (.chRelease c n length) s' := by
  unfold execChRelease at h
  rcases State.commandStep_cases h with ⟨hn, h⟩ | ⟨p, tables, hc, hd, h⟩ | rfl
  · exact State.start_move rfl hn h
  · cases p with
    | start =>
      simp only at h
      split at h
      · injection h with h; subst h; exact .halt _ _ _
      · next hf =>
        injection h with h
        subst h
        refine .relMark c n length tables hc hd ?_
        unfold State.releaseFault at hf
        split at hf
        · cases hf
        · assumption
    | relStart =>
      rcases State.regWriteAt_cases hwf h with rfl | ⟨code, info, rfl⟩ | ⟨u, -, hu, hk⟩
      · exact .stay _
      · exact .halt _ _ _
      · split at hk
        · injection hk with hk
          subst hk
          exact .relFirst c n length tables u hc hd ‹_› hu
        · injection hk with hk
          subst hk
          exact .relOnly c n length tables u hc hd ‹_› hu
    | relEnd =>
      rcases State.regWriteAt_cases hwf h with rfl | ⟨code, info, rfl⟩ | ⟨u, -, hu, hk⟩
      · exact .stay _
      · exact .halt _ _ _
      · injection hk with hk
        subst hk
        exact .relSecond c n length tables u hc hd hu
    | _ => cases h
  · exact .halt _ _ _

theorem execClkGet_move (hwf : s.cfg.wf = true) (h : execClkGet s = .next s') : s.Move .clkGet s' := by
  rcases State.commandStep_cases h with ⟨hn, h⟩ | ⟨p, tables, hc, hd, h⟩ | rfl
  · exact State.start_move rfl hn h
  · have hwrite : ∀ {v : Word64} {q : ClkGetPoint},
        s.onAccess (s.regWrite (s.cfg.off .timeCtrl) v) (fun _ s1 => .next (s1.goto .clkGet (.clkGet q))) = .next s' →
        s.Move .clkGet s' := by
      intro v q h
      rcases State.regWriteAt_cases hwf h with rfl | ⟨code, info, rfl⟩ | ⟨u, -, hu, hk⟩
      · exact .stay _
      · exact .halt _ _ _
      · injection hk with hk
        subst hk
        exact .clkWrite _ tables p _ _ _ u (.inl ⟨rfl, q, rfl⟩) hc hd (.inl rfl) hu
    have hread : ∀ {k : TimeField} {q : Half → ClkGetPoint},
        s.onAccess (s.regRead (s.cfg.off (.time k))) (fun x s1 => .next (s1.goto .clkGet (.clkGet (q x)))) = .next s' →
        s.Move .clkGet s' := by
      intro k q h
      rcases State.onRegRead_cases h with rfl | ⟨code, info, rfl⟩ | ⟨x, u, hu, -, -, hk⟩
      · exact .stay _
      · exact .halt _ _ _
      · injection hk with hk
        subst hk
        exact .clkRead tables p _ u hc hd hu
    cases p with
    | start => exact hwrite h
    | clkGet q =>
      cases q with
      | latchClear => exact hwrite h
      | field0 => exact hread (k := .t0) (q := fun x => .field1 x) h
      | field1 f0 => exact hread (k := .t1) (q := fun x => .field2 f0 x) h
      | field2 f0 f1 => exact hread (k := .t2) (q := fun x => .field3 f0 f1 x) h
      | field3 f0 f1 f2 =>
        rcases State.onRegRead_cases h with rfl | ⟨code, info, rfl⟩ | ⟨x, u, hu, -, -, hk⟩
        · exact .stay _
        · exact .halt _ _ _
        · injection hk with hk
          subst hk
          exact .clkGot tables _ u _ _ hc hd hu
    | _ => cases h
  · exact .halt _ _ _

theorem execClkSet_move (hwf : s.cfg.wf = true) {ns : Word64} (h : execClkSet ns s = .next s') :
    s.Move (.clkSet ns) s' := by
  rcases State.commandStep_cases h with ⟨hn, h⟩ | ⟨p, tables, hc, hd, h⟩ | rfl
  · exact State.start_move rfl hn h
  · have hwrite : ∀ {r : Reg} {v : Word64} {q : ClkSetPoint}, (r = .timeCtrl ∨ ∃ k, r = .time k) →
        s.onAccess (s.regWrite (s.cfg.off r) v) (fun _ s1 => .next (s1.goto (.clkSet ns) (.clkSet q))) = .next s' →
        s.Move (.clkSet ns) s' := by
      intro r v q hr h
      rcases State.regWriteAt_cases hwf h with rfl | ⟨code, info, rfl⟩ | ⟨u, -, hu, hk⟩
      · exact .stay _
      · exact .halt _ _ _
      · injection hk with hk
        subst hk
        exact .clkWrite _ tables p _ _ _ u (.inr ⟨ns, rfl, q, rfl⟩) hc hd hr hu
    cases p with
    | start => exact hwrite (.inr ⟨.t0, rfl⟩) h
    | clkSet q =>
      cases q with
      | field1 => exact hwrite (.inr ⟨.t1, rfl⟩) h
      | field2 => exact hwrite (.inr ⟨.t2, rfl⟩) h
      | field3 => exact hwrite (.inr ⟨.t3, rfl⟩) h
      | latchOut => exact hwrite (.inl rfl) h
      | latchClear =>
        rcases State.regWriteAt_cases hwf h with rfl | ⟨code, info, rfl⟩ | ⟨u, -, hu, hk⟩
        · exact .stay _
        · exact .halt _ _ _
        · injection hk with hk
          subst hk
          exact .clkDone ns tables _ _ u _ hc hd hu
    | _ => cases h
  · exact .halt _ _ _

theorem execCloseDev_move (h : execCloseDev s = .next s') : s.Move .closeDev s' := by
  rcases State.lifecycleStep_cases h with ⟨hn, h⟩ | ⟨p, hc, h⟩
  · rcases State.start_cases h with ⟨code, info, -, rfl⟩ | ⟨hk, rfl⟩
    · exact .halt _ _ _
    · obtain ⟨ht, tables, hd⟩ := State.entryCheckClose_none hk
      exact .enterClose tables hn ht hd
  · cases p with
    | start =>
      injection h with h
      subst h
      exact .close hc
    | _ => cases h

theorem State.mapDone_draws {m : MapStep} (i : Instr) {hash : Word64} {seed : Half} (hi : i = .openDev hash seed)
    (hc : s.current = some ⟨i, .opening (.map m)⟩) (h : s.mapStep i m = .next s') : s.Move i s' := by
  subst hi
  unfold State.mapStep at h
  have hd : s.DrawsOnly s.drawBool.2.draw.2 := s.draw_drawsOnly.trans s.drawBool.2.draw_drawsOnly
  simp only at h
  split at h
  · injection h with h
    subst h
    exact .openMap hash seed m _ hc hd
  · injection h with h
    subst h
    exact .openFail hash seed _ _ _ _ _ hc hd.reads

theorem execOpenDev_move (hwf : s.cfg.wf = true) {hash : Word64} {seed : Half} (h : execOpenDev hash seed s = .next s') :
    s.Move (.openDev hash seed) s' := by
  unfold execOpenDev at h
  rcases State.lifecycleStep_cases h with ⟨hn, h⟩ | ⟨p, hc, h⟩
  · rcases State.start_cases h with ⟨code, info, -, rfl⟩ | ⟨hk, rfl⟩
    · exact .halt _ _ _
    · obtain ⟨ht, hd⟩ := State.entryCheckOpen_none hk
      exact .enterOpen hash seed hn ht hd
  · cases p with
    | start =>
      injection h with h
      subst h
      exact .openStart hash seed hc
    | opening p =>
      have hread : ∀ {off : Nat} {k : Half → State → Result},
          (∀ x u, s.Reads u → u.busEnergized = true → k x u = .next s' → s.Move (.openDev hash seed) s') →
          s.onAccess (s.regRead off) k = .next s' → s.Move (.openDev hash seed) s' := by
        intro off k hk h
        rcases State.onRegRead_cases h with rfl | ⟨code, info, rfl⟩ | ⟨x, u, hu, he, -, h⟩
        · exact .stay _
        · exact .halt _ _ _
        · exact hk x u hu he h
      have hgo : ∀ {u : State} {q : OpenPoint}, s.Reads u → u.busEnergized = true → q.mapped = p.mapped →
          q.energised = true → q.afterReset = p.afterReset →
          (Host.Outcome.next (u.goto (.openDev hash seed) (.opening q)) : Result) = .next s' →
          s.Move (.openDev hash seed) s' := by
        intro u q hu he hm hq ha h
        injection h with h
        subst h
        exact .openRead hash seed p q u hc hu he hm hq ha
      have hwrite : ∀ {r : Reg} {v : Word64} {q : OpenPoint}, (r = .reset ∨ r = .loopback) → q.mapped = p.mapped →
          q.energised = true → (p.afterReset = true ∨ (r = .reset ∧ v.setWidth 16 = 1)) → q.afterReset = true →
          s.onAccess (s.regWrite (s.cfg.off r) v)
            (fun _ s1 => .next (s1.goto (.openDev hash seed) (.opening q))) = .next s' →
          s.Move (.openDev hash seed) s' := by
        intro r v q hr hm hq ha hqa h
        rcases State.regWriteAt_cases hwf h with rfl | ⟨code, info, rfl⟩ | ⟨u, he, hu, hk⟩
        · exact .stay _
        · exact .halt _ _ _
        · injection hk with hk
          subst hk
          exact .openWrite hash seed p q r _ u hc he hr hu hm hq ha hqa
      have hself : ∀ (t : State) (loaded : Bool) (x : Half) (k : Nat),
          (t.selfTestRegAt loaded x k).mapped = ⟨true, true, true, false⟩ ∧
            (t.selfTestRegAt loaded x k).energised = true ∧ (t.selfTestRegAt loaded x k).afterReset = true := by
        intro t loaded x k
        unfold State.selfTestRegAt
        split <;> exact ⟨rfl, rfl, rfl⟩
      cases p with
      | map m => exact State.mapDone_draws _ rfl hc h
      | energise => exact hread (fun x u hu he hk => hgo (q := .sentinel) hu he rfl rfl rfl hk) h
      | sentinel => exact hread (fun x u hu he hk => hgo (q := .version x) hu he rfl rfl rfl hk) h
      | version a => exact hread (fun x u hu he hk => hgo (q := .loopback a x) hu he rfl rfl rfl hk) h
      | loopback a v =>
        refine hread (fun x u hu he hk => ?_) h
        have h3 : (s.afterChecks hash a v x).mapped = ⟨true, true, true, false⟩ ∧
            (s.afterChecks hash a v x).energised = true ∧ (s.afterChecks hash a v x).afterReset = false := by
          unfold State.afterChecks
          split <;> exact ⟨rfl, rfl, rfl⟩
        exact hgo hu he h3.1 h3.2.1 h3.2.2 hk
      | load => injection h with h; subst h; exact .stay _
      | recheckSentinel =>
        exact hread (fun x u hu he hk => hgo (q := .recheckVersion x) hu he rfl rfl rfl hk) h
      | recheckVersion a =>
        refine hread (fun x u hu he hk => ?_) h
        unfold State.afterRecheck at hk
        split at hk
        · injection hk with hk; subst hk; exact .openFail hash seed _ u _ _ _ hc hu
        · split at hk
          · injection hk with hk; subst hk; exact .openFail hash seed _ u _ _ _ hc hu
          · exact hgo (q := .resetSet true) hu he rfl rfl rfl hk
      | resetSet loaded => exact hwrite (q := .resetClear loaded) (.inl rfl) rfl rfl (.inr ⟨rfl, rfl⟩) rfl h
      | resetClear loaded => exact hwrite (q := .tag loaded) (.inl rfl) rfl rfl (.inl rfl) rfl h
      | tag loaded => exact hwrite (q := .save loaded) (.inr rfl) rfl rfl (.inl rfl) rfl h
      | save loaded =>
        exact hread (fun x u hu he hk =>
          hgo hu he (hself s loaded x 0).1 (hself s loaded x 0).2.1 (hself s loaded x 0).2.2 hk) h
      | regWrite loaded saved k => exact hwrite (q := .regRead loaded saved k) (.inr rfl) rfl rfl (.inl rfl) rfl h
      | regRead loaded saved k =>
        refine hread (fun x u hu he hk => ?_) h
        split at hk
        · injection hk with hk; subst hk; exact .openFail hash seed _ u _ _ _ hc hu
        · exact hgo hu he (hself s loaded saved (k + 1)).1 (hself s loaded saved (k + 1)).2.1
            (hself s loaded saved (k + 1)).2.2 hk
      | restore loaded saved => exact hwrite (q := .mapTest loaded) (.inr rfl) rfl rfl (.inl rfl) rfl h
      | mapTest loaded =>
        have h : s.mapTestStep (.openDev hash seed) loaded = .next s' := h
        unfold State.mapTestStep at h
        have hd : s.DrawsOnly s.drawBool.2.draw.2 := s.draw_drawsOnly.trans s.drawBool.2.draw_drawsOnly
        simp only at h
        split at h
        · unfold State.selfTestMemWriteAt at h
          split at h
          · injection h with h; subst h; exact .openTest hash seed loaded _ hc hd
          · injection h with h; subst h; exact .openTestEnd hash seed loaded _ hc hd
        · injection h with h; subst h; exact .openFail hash seed _ _ _ _ _ hc hd.reads
      | memWrite loaded k =>
        rcases State.onMemWrite_cases h with rfl | hk
        · exact .stay _
        · unfold State.selfTestMemWriteAt at hk
          split at hk
          · injection hk with hk; subst hk; exact .openMemWrite hash seed loaded k _ _ hc (.inl ⟨_, rfl⟩)
          · split at hk
            · injection hk with hk; subst hk; exact .openMemWrite hash seed loaded k _ _ hc (.inr ⟨_, rfl⟩)
            · injection hk with hk; subst hk; exact .openMemWriteEnd hash seed loaded k _ hc
      | memRead loaded k =>
        rcases State.onMemRead_cases h with rfl | ⟨x, u, hu, hk⟩
        · exact .stay _
        · split at hk
          · injection hk with hk; subst hk; exact .openFail hash seed _ u _ _ _ hc hu.reads
          · unfold State.selfTestMemReadAt at hk
            split at hk
            · injection hk with hk; subst hk; exact .openMemRead hash seed loaded k _ u hc hu
            · injection hk with hk; subst hk; exact .openMemReadEnd hash seed loaded k u hc hu
    | _ => cases h

/-- The list is complete: a step of a command in a well-formed configuration that answers a next state makes one of the
moves. -/
theorem exec_move (hwf : s.cfg.wf = true) {i : Instr} (h : exec i s = .next s') : s.Move i s' := by
  cases i with
  | regRd off => exact execRegRd_move h
  | regWr off value => exact execRegWr_move h
  | memRd8 w a => exact execMemRd8_move h
  | memWr8 w a byte => exact execMemWr8_move h
  | openDev hash seed => exact execOpenDev_move hwf h
  | closeDev => exact execCloseDev_move h
  | tblNumAvail c => exact execTblNumAvail_move h
  | tblAcqHead c => exact execTblAcqHead_move h
  | tblMarkRel c h' => exact execTblMarkRel_move h
  | tblMarkTail c bytes => exact execTblMarkTail_move h
  | tblOffset c h' => exact execTblOffset_move h
  | tblBuff c h' => exact execTblBuff_move h
  | tblBpf c => exact execTblBpf_move h
  | chAcquire c us => exact execChAcquire_move hwf h
  | chTryAcquire c => exact execChTryAcquire_move hwf h
  | chRelease c h' length => exact execChRelease_move hwf h
  | chBuffer c h' => exact execChBuffer_move h
  | pollDrain c => exact execPollDrain_move hwf h
  | clkGet => exact execClkGet_move hwf h
  | clkSet ns => exact execClkSet_move hwf h

/-! ## The steps of the other agents -/

/-- Fetching the bytes of an MM2S descriptor takes draws and changes nothing else (43 R106). -/
theorem State.fetchBytes_drawsOnly (w : Window) (n a : Nat) (s : State) :
    s.DrawsOnly (State.fetchBytes w a n s).2 ∧ (State.fetchBytes w a n s).1.length = n := by
  induction n generalizing a s with
  | zero => exact ⟨s.drawsOnly_refl, rfl⟩
  | succ n ih =>
    unfold State.fetchBytes
    split
    · exact ⟨(ih (a + 1) s).1, congrArg (· + 1) (ih (a + 1) s).2⟩
    · exact ⟨s.draw_drawsOnly.trans (ih (a + 1) s.draw8.2).1, congrArg (· + 1) (ih (a + 1) s.draw8.2).2⟩

/-- Drawing bytes takes draws and changes nothing else (43 R107). -/
theorem State.drawBytes_drawsOnly (n : Nat) (s : State) :
    s.DrawsOnly (State.drawBytes n s).2 ∧ (State.drawBytes n s).1.length = n := by
  induction n generalizing s with
  | zero => exact ⟨s.drawsOnly_refl, rfl⟩
  | succ n ih =>
    exact ⟨s.draw_drawsOnly.trans (ih s.draw8.2).1, congrArg (· + 1) (ih s.draw8.2).2⟩

/-- One step of DMA[c]: nothing to do, a descriptor out of range, or the oldest descriptor performed (43 R105 to R107). -/
theorem State.dmaStep_cases {c : Chan} (h : s.dmaStep c = .next s') :
    s' = s ∨ (∃ code info, s' = s.raised code info) ∨
    (s.resetAsserted = false ∧ ∃ first last rest data count u, s.descQ.get c = .mm2s first last :: rest ∧ s.DrawsOnly u ∧
      s' = { u with
        descQ := s.descQ.set c rest
        streamOut := s.streamOut.set c (s.streamOut.get c ++ [data])
        cmplQ := s.cmplQ.set c (s.cmplQ.get c ++ [count]) }) ∨
    (s.resetAsserted = false ∧ ∃ first rest data count u, s.descQ.get c = .s2mm first :: rest ∧ s.DrawsOnly u ∧
      s' = { u with
        mem := s.mem.set c.win (Memory.writeBytes (s.mem.get c.win) first.toNat data)
        descQ := s.descQ.set c rest
        streamIn := s.streamIn.set c (s.streamIn.get c ++ [data])
        cmplQ := s.cmplQ.set c (s.cmplQ.get c ++ [count]) }) := by
  unfold State.dmaStep at h
  split at h
  · injection h with h; exact .inl h.symm
  · next hen =>
    have hr : s.resetAsserted = false := by simp_all
    split at h
    · injection h with h; exact .inl h.symm
    · next first last rest hq =>
      unfold State.dmaSend at h
      split at h
      · injection h with h; exact .inr (.inl ⟨_, _, h.symm⟩)
      · injection h with h
        exact .inr (.inr (.inl ⟨hr, first, last, rest, _, _, _, hq,
          (State.fetchBytes_drawsOnly _ _ _ s).1.trans (State.draw_drawsOnly _), h.symm⟩))
    · next first rest hq =>
      unfold State.dmaReceive at h
      simp only at h
      split at h
      · injection h with h; exact .inr (.inl ⟨_, _, h.symm⟩)
      · injection h with h
        exact .inr (.inr (.inr ⟨hr, first, rest, _, _, _, hq,
          s.draw_drawsOnly.trans (State.drawBytes_drawsOnly _ _).1, h.symm⟩))

/-- One step of the LOADER: nothing to do, or the load that thread 0 waits for (41 R80). -/
theorem State.loaderStep_cases (h : s.loaderStep = .next s') :
    s' = s ∨ ∃ hash seed, (s.thread 0).running = some ⟨.openDev hash seed, .opening .load⟩ ∧
      s' = s.load.putAt 0 (.openDev hash seed) (.opening .recheckSentinel) := by
  unfold State.loaderStep at h
  split at h
  · next hash seed hr => injection h with h; exact .inr ⟨hash, seed, hr, h.symm⟩
  · injection h with h; exact .inl h.symm

/-- One step of the agent whose turn it is, in a well-formed configuration. -/
theorem agentStep_cases (hwf : s.cfg.wf = true) (h : agentStep s = .next s') :
    s' = s ∨ (∃ code info, s' = s.raised code info) ∨
    (∃ t i, s.turn = .host t ∧ t < s.threads.length ∧ s.Move i s') ∨
    (∃ c, s.turn = .dma c ∧ s.dmaStep c = .next s') ∨ (s.turn = .clock ∧ s' = s.tick) ∨
    (s.turn = .loader ∧ s.loaderStep = .next s') := by
  unfold agentStep at h
  split at h
  · next t ht =>
    unfold hostStep at h
    split at h
    · injection h with h; exact .inl h.symm
    · injection h with h; exact .inr (.inl ⟨_, _, h.symm⟩)
    · next i hi =>
      refine .inr (.inr (.inl ⟨t, i, ht, ?_, exec_move hwf h⟩))
      by_contra hn
      rw [State.fetch, List.getElem?_eq_none (by omega)] at hi
      cases hi
  · next c hc => exact .inr (.inr (.inr (.inl ⟨c, hc, h⟩)))
  · next hc => injection h with h; exact .inr (.inr (.inr (.inr (.inl ⟨hc, h.symm⟩))))
  · next hc => exact .inr (.inr (.inr (.inr (.inr ⟨hc, h⟩))))

end Sys2Proof.Machine
end

