-- ==== Sys2Proof/Laws/PerInstr.lean ====
section
/-! SUPPORT. Statements made per command, one lemma for each constructor of `Instr`. The family `EncodeFields`: the
encoded word carries the command's opcode and a zero Z (spec 30 R58, R60). -/

namespace Sys2Proof.Laws.EncodeFields

open Sys2Proof

/-- The word of command `i` has the opcode of `i` in OP, and Z = 0. -/
def Statement (i : Instr) : Prop := fieldOp (encode i) = i.opcode ∧ fieldZ (encode i) = 0

theorem regRd (off : Half) : Statement (.regRd off) := ⟨fieldOp_packWord .., fieldZ_packWord ..⟩
theorem regWr (off : Half) (value : Word64) : Statement (.regWr off value) := ⟨fieldOp_packWord .., fieldZ_packWord ..⟩
theorem memRd8 (w : Window) (a : Word64) : Statement (.memRd8 w a) := ⟨fieldOp_packWord .., fieldZ_packWord ..⟩
theorem memWr8 (w : Window) (a : Word64) (byte : Byte) : Statement (.memWr8 w a byte) := ⟨fieldOp_packWord .., fieldZ_packWord ..⟩
theorem openDev (hash : Word64) (seed : Half) : Statement (.openDev hash seed) := ⟨fieldOp_packWord .., fieldZ_packWord ..⟩
theorem closeDev : Statement (.closeDev) := ⟨fieldOp_packWord .., fieldZ_packWord ..⟩
theorem tblNumAvail (c : Chan) : Statement (.tblNumAvail c) := ⟨fieldOp_packWord .., fieldZ_packWord ..⟩
theorem tblAcqHead (c : Chan) : Statement (.tblAcqHead c) := ⟨fieldOp_packWord .., fieldZ_packWord ..⟩
theorem tblMarkRel (c : Chan) (h : Half) : Statement (.tblMarkRel c h) := ⟨fieldOp_packWord .., fieldZ_packWord ..⟩
theorem tblMarkTail (c : Chan) (bytes : Word64) : Statement (.tblMarkTail c bytes) := ⟨fieldOp_packWord .., fieldZ_packWord ..⟩
theorem tblOffset (c : Chan) (h : Half) : Statement (.tblOffset c h) := ⟨fieldOp_packWord .., fieldZ_packWord ..⟩
theorem tblBuff (c : Chan) (h : Half) : Statement (.tblBuff c h) := ⟨fieldOp_packWord .., fieldZ_packWord ..⟩
theorem tblBpf (c : Chan) : Statement (.tblBpf c) := ⟨fieldOp_packWord .., fieldZ_packWord ..⟩
theorem chAcquire (c : Chan) (timeoutUs : Word64) : Statement (.chAcquire c timeoutUs) := ⟨fieldOp_packWord .., fieldZ_packWord ..⟩
theorem chTryAcquire (c : Chan) : Statement (.chTryAcquire c) := ⟨fieldOp_packWord .., fieldZ_packWord ..⟩
theorem chRelease (c : Chan) (h : Half) (length : Word64) : Statement (.chRelease c h length) := ⟨fieldOp_packWord .., fieldZ_packWord ..⟩
theorem chBuffer (c : Chan) (h : Half) : Statement (.chBuffer c h) := ⟨fieldOp_packWord .., fieldZ_packWord ..⟩
theorem pollDrain (c : Chan) : Statement (.pollDrain c) := ⟨fieldOp_packWord .., fieldZ_packWord ..⟩
theorem clkGet : Statement (.clkGet) := ⟨fieldOp_packWord .., fieldZ_packWord ..⟩
theorem clkSet (ns : Word64) : Statement (.clkSet ns) := ⟨fieldOp_packWord .., fieldZ_packWord ..⟩

end Sys2Proof.Laws.EncodeFields
end

