-- ==== Sys2Proof/Machine/Assembler.lean ====
section
/-! DEFINITION. The assembler syntax (spec 30 R64), from the operands of one line to a command, and the
pseudo-instructions with their expansions (30 R65). No step of the machine reads it. -/

namespace Sys2Proof

/-- One operand of an assembler line, read: a channel (`ch0` or its other name `fmm2s`), a window, a number, or a register
by its REGMAP name. -/
inductive AsmArg where
  | chan (c : Chan)
  | window (w : Window)
  | number (n : Nat)
  | register (r : Reg)
  deriving DecidableEq, Repr, Inhabited

/-- The names of the channels (30 R64). -/
def AsmArg.ofChanName : List (String × Chan) :=
  [("ch0", .framerMm2s), ("ch1", .framerS2mm), ("ch2", .deframerMm2s), ("ch3", .deframerS2mm),
    ("fmm2s", .framerMm2s), ("fs2mm", .framerS2mm), ("dmm2s", .deframerMm2s), ("ds2mm", .deframerS2mm)]

/-- The names of the windows (30 R64). -/
def AsmArg.ofWindowName : List (String × Window) :=
  [("framer", .framer), ("deframer", .deframer), ("test", .test)]

/-- The names of the registers (10 R28, 30 R64; `READY` as the vectors of 95 write it). -/
def AsmArg.ofRegisterName : List (String × Reg) :=
  [("SENTINEL", .sentinel), ("VERSION", .version), ("RESET", .reset), ("LOOPBACK", .loopback),
    ("TIME0", .time .t0), ("TIME1", .time .t1), ("TIME2", .time .t2), ("TIME3", .time .t3), ("TIME_CTRL", .timeCtrl),
    ("CTRL0", .ctrl .framerMm2s), ("CTRL1", .ctrl .framerS2mm), ("CTRL2", .ctrl .deframerMm2s), ("CTRL3", .ctrl .deframerS2mm),
    ("STATUS0", .status .framerMm2s), ("STATUS1", .status .framerS2mm), ("STATUS2", .status .deframerMm2s),
    ("STATUS3", .status .deframerS2mm), ("READY_STATUS", .ready), ("READY", .ready)]

/-- A name as an operand. -/
def AsmArg.ofName (name : String) : Option AsmArg :=
  match AsmArg.ofChanName.lookup name with
  | some c => some (.chan c)
  | none =>
    match AsmArg.ofWindowName.lookup name with
    | some w => some (.window w)
    | none => (AsmArg.ofRegisterName.lookup name).map .register

/-- The value of a numeric operand of at most `bits` bits; a register name stands for its offset. -/
def AsmArg.value (cfg : Config) (bits : Nat) : AsmArg → Option Nat
  | .number n => if n < 2 ^ bits then some n else none
  | .register r => if cfg.off r < 2 ^ bits then some (cfg.off r) else none
  | .chan _ => none
  | .window _ => none

/-- A 16-bit operand. -/
def AsmArg.half (cfg : Config) (a : AsmArg) : Option Half := (a.value cfg 16).map (BitVec.ofNat 16)

/-- A 64-bit operand. -/
def AsmArg.word (cfg : Config) (a : AsmArg) : Option Word64 := (a.value cfg 64).map (BitVec.ofNat 64)

/-- One line: the mnemonic and its operands in the order of 30 R64. -/
def assemble (cfg : Config) (mnemonic : String) (args : List AsmArg) : Option Instr :=
  match mnemonic, args with
  | "REG_RD", [off] => (off.half cfg).map .regRd
  | "REG_WR", [off, v] => (off.half cfg).bind fun o => (v.word cfg).map fun x => .regWr o x
  | "MEM_RD8", [.window w, a] => (a.word cfg).map fun x => .memRd8 w x
  | "MEM_WR8", [.window w, a, b] =>
    (a.word cfg).bind fun x => (b.value cfg 8).map fun y => .memWr8 w x (BitVec.ofNat 8 y)
  | "OPEN", [hash, seed] => (hash.word cfg).bind fun h => (seed.half cfg).map fun x => .openDev h x
  | "CLOSE", [] => some .closeDev
  | "TBL_NUM_AVAIL", [.chan c] => some (.tblNumAvail c)
  | "TBL_ACQ_HEAD", [.chan c] => some (.tblAcqHead c)
  | "TBL_MARK_REL", [.chan c, h] => (h.half cfg).map fun x => .tblMarkRel c x
  | "TBL_MARK_TAIL", [.chan c, n] => (n.word cfg).map fun x => .tblMarkTail c x
  | "TBL_OFFSET", [.chan c, h] => (h.half cfg).map fun x => .tblOffset c x
  | "TBL_BUFF", [.chan c, h] => (h.half cfg).map fun x => .tblBuff c x
  | "TBL_BPF", [.chan c] => some (.tblBpf c)
  | "CH_ACQUIRE", [.chan c, us] => (us.word cfg).map fun x => .chAcquire c x
  | "CH_TRY_ACQUIRE", [.chan c] => some (.chTryAcquire c)
  | "CH_RELEASE", [.chan c, h, n] => (h.half cfg).bind fun x => (n.word cfg).map fun y => .chRelease c x y
  | "CH_BUFFER", [.chan c, h] => (h.half cfg).map fun x => .chBuffer c x
  | "POLL_DRAIN", [.chan c] => some (.pollDrain c)
  | "CLK_GET", [] => some .clkGet
  | "CLK_SET", [ns] => (ns.word cfg).map .clkSet
  | _, _ => none

/-- The pseudo-instructions (30 R65). -/
inductive Pseudo where
  | pulse (off : Half) (v : Word64)
  | resetPulse
  | latchIn
  | latchOut
  | ack (c : Chan)
  deriving DecidableEq, Repr, Inhabited

/-- The offset of a register as an operand A. -/
def Config.offA (cfg : Config) (r : Reg) : Half := BitVec.ofNat 16 (cfg.off r)

/-- PULSE off, v: a write of `v` and then of 0 (30 R65). -/
def pulse (off : Half) (v : Word64) : List Instr := [.regWr off v, .regWr off 0]

/-- The expansion of a pseudo-instruction (30 R65). -/
def Pseudo.expand (cfg : Config) : Pseudo → List Instr
  | .pulse off v => Sys2Proof.pulse off v
  | .resetPulse => Sys2Proof.pulse (cfg.offA .reset) 1
  | .latchIn => Sys2Proof.pulse (cfg.offA .timeCtrl) (1 <<< cfg.tcInBit)
  | .latchOut => Sys2Proof.pulse (cfg.offA .timeCtrl) (1 <<< cfg.tcOutBit)
  | .ack c => [.regWr (cfg.offA (.status c)) 0]

end Sys2Proof
end

