-- ==== Sys2Proof/Tests/Slice0.lean ====
section
/-! SUPPORT. The model's own tests: ill-formed terms refused, every command's word decoded (the words are those of spec 95
and 30 R60), illegal words (95 V30), single steps against 95's vectors, and for every obligation a witness of its
hypotheses. -/

namespace Sys2Proof.Tests

open Sys2Proof Sys2Proof.Machine

/-! ## Well-formedness -/

theorem test_memRd8_reg_refused : (Instr.memRd8 .reg 0).wellFormed = false := by decide
theorem test_memWr8_reg_refused : (Instr.memWr8 .reg 0 0).wellFormed = false := by decide
theorem test_reference_config_wf : Config.reference.wf = true := by decide
theorem test_config_readyBits_refused : { Config.reference with readyBit := .all 0 }.wf = false := by decide
theorem test_config_overlap_refused : { Config.reference with base := .all 0 }.wf = false := by decide
theorem test_config_oddOffset_refused :
    { Config.reference with regMap := { RegMap.reference with ready := 0x31 } }.wf = false := by decide
theorem test_config_window_refused : { Config.reference with framerBytes := 0x7FF }.wf = false := by decide
theorem test_config_owner_refused : { Config.reference with owner := .all 1 }.wf = false := by decide
theorem test_config_latchBits_refused : { Config.reference with tcOutBit := 0 }.wf = false := by decide
theorem test_config_depth_refused : { Config.reference with queueDepth := .all 3 }.wf = false := by decide

/-! ## Decoding: a word of every command (30 R60, 95) -/

theorem test_decode_regRd : decodeTableWord 128 0x01000006000000000000000000000000 = some (.regRd 0x06) := by decide
theorem test_decode_regWr : decodeTableWord 128 0x0200000600000000ffffffffffff0001 = some (.regWr 0x06 0xFFFFFFFFFFFF0001) := by decide
theorem test_decode_memRd8 : decodeTableWord 128 0x030100000000000000000000000003ff = some (.memRd8 .deframer 0x3FF) := by decide
theorem test_decode_memWr8 : decodeTableWord 128 0x040200ff0000000000000000000000ff = some (.memWr8 .test 0xFF 0xFF) := by decide
theorem test_decode_openDev : decodeTableWord 128 0x10000007000000000000000000001234 = some (.openDev 0x1234 7) := by decide
theorem test_decode_closeDev : decodeTableWord 128 0x11000000000000000000000000000000 = some (.closeDev) := by decide
theorem test_decode_tblNumAvail : decodeTableWord 128 0x20010000000000000000000000000000 = some (.tblNumAvail .framerS2mm) := by decide
theorem test_decode_tblAcqHead : decodeTableWord 128 0x21000000000000000000000000000000 = some (.tblAcqHead .framerMm2s) := by decide
theorem test_decode_tblMarkRel : decodeTableWord 128 0x22000004000000000000000000000000 = some (.tblMarkRel .framerMm2s 4) := by decide
theorem test_decode_tblMarkTail : decodeTableWord 128 0x230100000000000000000000000000c8 = some (.tblMarkTail .framerS2mm 200) := by decide
theorem test_decode_tblOffset : decodeTableWord 128 0x24010003000000000000000000000000 = some (.tblOffset .framerS2mm 3) := by decide
theorem test_decode_tblBuff : decodeTableWord 128 0x25020001000000000000000000000000 = some (.tblBuff .deframerMm2s 1) := by decide
theorem test_decode_tblBpf : decodeTableWord 128 0x26030000000000000000000000000000 = some (.tblBpf .deframerS2mm) := by decide
theorem test_decode_chAcquire : decodeTableWord 128 0x300000000000000000000000000003e8 = some (.chAcquire .framerMm2s 1000) := by decide
theorem test_decode_chTryAcquire : decodeTableWord 128 0x31030000000000000000000000000000 = some (.chTryAcquire .deframerS2mm) := by decide
theorem test_decode_chRelease : decodeTableWord 128 0x3203ffff00000000ffffffffffffffff = some (.chRelease .deframerS2mm 0xFFFF 0xFFFFFFFFFFFFFFFF) := by decide
theorem test_decode_chBuffer : decodeTableWord 128 0x33000000000000000000000000000000 = some (.chBuffer .framerMm2s 0) := by decide
theorem test_decode_pollDrain : decodeTableWord 128 0x38010000000000000000000000000000 = some (.pollDrain .framerS2mm) := by decide
theorem test_decode_clkGet : decodeTableWord 128 0x40000000000000000000000000000000 = some (.clkGet) := by decide
theorem test_decode_clkSet : decodeTableWord 128 0x4100000000000000000000000012d687 = some (.clkSet 1234567) := by decide

/-! ## Illegal words (95 V30-1 to V30-11) -/

theorem test_illegal_1 : decode 0x00000000000000000000000000000000 = .error .unassignedOpcode := by decide
theorem test_illegal_2 : decode 0x42000000000000000000000000000000 = .error .unassignedOpcode := by decide
theorem test_illegal_3 : decode 0x20000000000000010000000000000000 = .error .reservedNotZero := by decide
theorem test_illegal_4 : decode 0x03030000000000000000000000000000 = .error .windowOutOfRange := by decide
theorem test_illegal_5 : decode 0x040001a5000000000000000000000000 = .error .fieldNotZero := by decide
theorem test_illegal_6 : decode 0x20040000000000000000000000000000 = .error .channelOutOfRange := by decide
theorem test_illegal_7 : decode 0x11000000000000000000000000000001 = .error .fieldNotZero := by decide
theorem test_illegal_8 : decode 0x01010006000000000000000000000000 = .error .fieldNotZero := by decide
theorem test_illegal_9 : decode 0x01000006000000000000000000000001 = .error .fieldNotZero := by decide
theorem test_illegal_10 : decode 0x10020007000000000000000000001234 = .error .fieldNotZero := by decide
theorem test_illegal_11 : decode 0x38000001000000000000000000000000 = .error .fieldNotZero := by decide

/-! ## Small states

`demo` is the state S0 of 95 with a counter of 123457: the reference configuration, an open device, fresh tables. -/

def demo : State :=
  { State.powerOn Config.reference [[]] with
    turn := .host 0, sched := [.clock], answers := [0, 0, 0, 0], counter := 123457, drawn := 0, dev := .opened (Config.freshTables Config.reference)
    mapped := ⟨true, true, true, false⟩, busEnergized := true, image := .loaded 0x5A5A 3, loopback := some 0x1234 }

/-- `demo` with thread 0 at a point of a command. -/
def demoAt (i : Instr) (p : Point) : State := demo.putAt 0 i p

/-- A reference table with `a` slots acquired and the first `r` of them released, from slot 0 on. -/
def ring (a r : Nat) : Table :=
  { head := a % 4, tail := 0, avail := 4 - a
    slots := List.replicate r .pending ++ List.replicate (a - r) .inFlight ++ List.replicate (4 - a) .free
    lens := List.replicate 4 256 }

/-- `demoAt` with every table in the given state. -/
def demoWith (t : Table) (i : Instr) (p : Point) : State := { demoAt i p with dev := .opened (.all t) }

/-- A device that is not open. -/
def closedAt (i : Instr) (p : Point) : State :=
  { demoAt i p with dev := .closed, mapped := ⟨false, false, false, false⟩, busEnergized := false }

/-- `demo` with two threads, thread 1 owning channel 1, and thread `t` next (95 V60-2). -/
def demo2 (t : Nat) : State :=
  { demo with
    cfg := { Config.reference with threads := 2, owner := ⟨0, 1, 0, 0⟩ }
    threads := [Thread.powerOn [], Thread.powerOn []], turn := .host t }

/-- A state whose next step is that of thread `t` fetching the word `w`. -/
def fetching (s : State) (t : Nat) (w : CmdWord) : State := s.setThread t { s.thread t with running := none, stream := [w] }

/-- The next state of a step. -/
def nextOf (r : Result) : Option State :=
  match r with
  | .next s => some s
  | .fault _ => none
  | .refused _ => none

theorem next_of {r : Result} (h : (nextOf r).isSome = true) : ∃ s', r = .next s' := by
  cases r with
  | next s => exact ⟨s, rfl⟩
  | fault _ => cases h
  | refused _ => cases h

/-- The three result registers of thread 0. -/
def results (s : State) : Option Byte × Option Word64 × Option Word64 :=
  ((s.thread 0).rstat, (s.thread 0).rv0, (s.thread 0).rv1)

/-- The codes and infos of the faults. -/
def faultsOf (s : State) : List (Byte × FaultInfo) := s.faults.map fun f => (f.code.code, f.info)

/-- The table of channel 0. -/
def table0 (s : State) : Option Table :=
  match s.dev with
  | .opened tables => some tables.c0
  | .closed => none
  | .opening => none

theorem openAt {s : State} {t : Nat} {i : Instr} {p : Point} {tables : PerChan Table}
    (h : s.turn = .host t ∧ t < s.threads.length ∧ (s.thread t).running = some ⟨i, p⟩ ∧ s.dev = .opened tables) :
    s.OpenAt t i p tables := ⟨⟨h.1, h.2.1, h.2.2.1⟩, h.2.2.2⟩

theorem placed {s : State} {t : Nat} {i : Instr} {p : Point}
    (h : s.turn = .host t ∧ t < s.threads.length ∧ (s.thread t).running = some ⟨i, p⟩) : s.At t i p := ⟨h.1, h.2.1, h.2.2⟩

theorem idle {s : State} {t : Nat} (h : s.turn = .host t ∧ t < s.threads.length ∧ (s.thread t).running = none) :
    s.Idle t := ⟨h.1, h.2.1, h.2.2⟩

theorem busReady {s : State} (h : s.cfg.wf = true ∧ s.cfg.fabricResponds = true ∧ s.busEnergized = true) : s.BusReady :=
  ⟨h.1, h.2.1, h.2.2⟩

/-! ## Single steps (95) -/

/-- V40-10. -/
theorem test_regRd_loopback :
    (nextOf (execRegRd 0x06 (demoAt (.regRd 0x06) .start))).map results = some (some 0, some 0x1234, none) := by decide

/-- V40-4: the odd check comes first. -/
theorem test_regRd_odd : (nextOf (execRegRd 0x41 (demoAt (.regRd 0x41) .start))).map faultsOf =
    some [(0x89, .offset 0x41)] := by decide

/-- V40-8: the value truncates to 1. -/
theorem test_regWr_reset : (nextOf (execRegWr 0x04 0x10001 (demoAt (.regWr 0x04 0x10001) .start))).map
    (fun s => (s.resetAsserted, s.loopback, results s)) = some (true, none, some 0, none, none) := by decide

/-- V45-5 for k = 1: the latch-in edge. -/
theorem test_regWr_latchIn : (nextOf (execRegWr 0x10 1 (demoAt (.regWr 0x10 1) .start))).map
    (fun s => (s.snap, s.tc)) = some (⟨some 0xE241, some 1, some 0, some 0⟩, 1) := by decide

/-- V40-21: the last byte of slot 3 of channel 2. -/
theorem test_memRd8_ownership : (nextOf (execMemRd8 .deframer 0x3FF (demoAt (.memRd8 .deframer 0x3FF) .start))).map faultsOf =
    some [(0x8C, .frame .deframerMm2s 3 0x3FF)] := by decide

/-- P1, command 3. -/
theorem test_memWr8 : (nextOf (execMemWr8 .framer 0 0xA5 (demoWith (ring 1 0) (.memWr8 .framer 0 0xA5) .start))).map
    (fun s => (s.mem.framer, results s)) = some ([(0, 0xA5)], some 0, none, none) := by decide

/-- V41-5: the draw of the FRAMER mapping fails with error 9. -/
theorem test_openDev_mapFails :
    (nextOf (execOpenDev 0x1234 7 { demoAt (.openDev 0x1234 7) (.opening (.map .framer)) with
      dev := .opening, mapped := ⟨true, false, false, false⟩, answers := [0, 9] })).map
      (fun s => (s.dev, s.mapped, results s)) =
    some (.closed, ⟨false, false, false, false⟩, some 0x10, some 3, some 9) := by decide

/-- V41-8: after a load the sentinel check comes first. -/
theorem test_openDev_recheck :
    (nextOf (execOpenDev 0x1234 7 { demoAt (.openDev 0x1234 7) (.opening (.recheckVersion 0)) with
      dev := .opening, image := .loaded 0 2 })).map (fun s => (s.dev, results s)) =
    some (.closed, some 0x11, some 0, some 0x5A5A) := by decide

/-- V41-11. -/
theorem test_closeDev : (nextOf (execCloseDev (demoAt .closeDev .start))).map
    (fun s => (s.dev, s.mapped, s.busEnergized, s.loopback)) =
    some (.closed, ⟨false, false, false, false⟩, false, some 0x1234) := by decide

/-- V42-1. -/
theorem test_tblNumAvail : (nextOf (execTblNumAvail .framerMm2s (demoAt (.tblNumAvail .framerMm2s) .start))).map results =
    some (some 0, some 4, none) := by decide

/-- V42-2, the fourth: the head wraps. -/
theorem test_tblAcqHead : (nextOf (execTblAcqHead .framerMm2s (demoWith (ring 3 0) (.tblAcqHead .framerMm2s) .start))).map
    (fun s => (table0 s, results s)) = some (some (ring 4 0), some 0, some 3, some 256) := by decide

/-- V42-5: two slots acquired, the second released first. -/
theorem test_tblMarkRel : (nextOf (execTblMarkRel .framerMm2s 1 (demoWith (ring 2 0) (.tblMarkRel .framerMm2s 1) .start))).map
    faultsOf = some [(0x84, .order .framerMm2s 1 0)] := by decide

/-- V42-11: a zero-length frame. -/
theorem test_tblMarkTail : (nextOf (execTblMarkTail .framerMm2s 0 (demoWith (ring 1 1) (.tblMarkTail .framerMm2s 0) .start))).map
    (fun s => (table0 s, results s)) =
    some (some { head := 1, tail := 1, avail := 4, slots := [.free, .free, .free, .free], lens := [0, 256, 256, 256] },
      some 0, some 4, none) := by decide

/-- V42-13. -/
theorem test_tblOffset : (nextOf (execTblOffset .framerS2mm 3 (demoAt (.tblOffset .framerS2mm 3) .start))).map results =
    some (some 0, some 0x700, none) := by decide

/-- V42-15. -/
theorem test_tblBuff : (nextOf (execTblBuff .deframerMm2s 1 (demoAt (.tblBuff .deframerMm2s 1) .start))).map results =
    some (some 0, some 1, some 0x100) := by decide

/-- V42-16. -/
theorem test_tblBpf : (nextOf (execTblBpf .deframerS2mm (demoAt (.tblBpf .deframerS2mm) .start))).map results =
    some (some 0, some 256, none) := by decide

/-- V43-6: with no frame and a timeout of 0, exactly one READY read. -/
theorem test_chAcquire_timeout :
    (nextOf (execChAcquire .framerMm2s 0 (demoWith (ring 4 0) (.chAcquire .framerMm2s 0) .start))).map results =
    some (some 2, some 0xFFFFFFFFFFFFFFFF, some 0) := by decide

/-- P5, command 1. -/
theorem test_chTryAcquire :
    (nextOf (execChTryAcquire .deframerS2mm (demoAt (.chTryAcquire .deframerS2mm) .start))).map results =
    some (some 0, some 0, some 256) := by decide

/-- V43-4: one byte too long, before any change. -/
theorem test_chRelease_length :
    (nextOf (execChRelease .framerMm2s 0 257 (demoWith (ring 1 0) (.chRelease .framerMm2s 0 257) .start))).map
      (fun s => (faultsOf s, table0 s)) = some ([(0x87, .length .framerMm2s 257)], some (ring 1 0)) := by decide

/-- L1.8: the second write of `CH_RELEASE ch0, 0, 100`. -/
theorem test_chRelease_end :
    (nextOf (execChRelease .framerMm2s 0 100 { demoWith (ring 1 1) (.chRelease .framerMm2s 0 100) .relEnd with
      mm2sStart := ⟨some 0, none, none, none⟩ })).map (fun s => (s.descQ.c0, (s.thread 0).cp)) =
    some ([.mm2s 0 0x64], 1) := by decide

/-- P1, command 2. -/
theorem test_chBuffer : (nextOf (execChBuffer .framerMm2s 0 (demoWith (ring 1 0) (.chBuffer .framerMm2s 0) .start))).map results =
    some (some 0, some 0, some 0) := by decide

/-- V44-5: the tail slot is IN_FLIGHT. -/
theorem test_pollDrain_order :
    (nextOf (execPollDrain .framerS2mm (demoWith (ring 1 0) (.pollDrain .framerS2mm) (.drain (.mark 0 5))))).map faultsOf =
    some [(0x85, .completion .framerS2mm 0 .inFlight)] := by decide

/-- L1.4, step 2. -/
theorem test_pollDrain_idle : (nextOf (execPollDrain .framerMm2s (demoAt (.pollDrain .framerMm2s) .start))).map results =
    some (some 0, some 0, some 4) := by decide

/-- The example of R117: its last read. -/
theorem test_clkGet : (nextOf (execClkGet { demoAt .clkGet (.clkGet (.field3 0xE241 1 0)) with
    snap := ⟨none, none, none, some 0⟩ })).map results = some (some 0, some 1234570, some 123457) := by decide

/-- VC-2, VC-6: the rounding goes up on a set and down on a get. -/
theorem test_clock_rounding :
    Config.reference.nsToTicks 1 = 1 ∧ Config.reference.ticksToNs 1 = 10 ∧
    Config.reference.nsToTicks 0xFFFFFFFFFFFFFFFF = 0x199999999999999A ∧
    Config.reference.ticksToNs 0x199999999999999A = 4 := by decide

/-- The example of R118: its first write. -/
theorem test_clkSet : (nextOf (execClkSet 1234567 (demoAt (.clkSet 1234567) .start))).map (fun s => s.wr.f0) =
    some (some 0xE241) := by decide

/-- V30-14: at power-on an illegal word faults ILLEGAL_COMMAND, not NOT_OPEN; a command before OPEN faults NOT_OPEN. -/
theorem test_step_illegal : (nextOf (step (State.reset.withFetchWord 128 0))).map faultsOf = some [(0x80, .word 0)] := by decide
theorem test_step_notOpen : (nextOf (step (State.reset.withFetchWord 128 0x40000000000000000000000000000000))).map faultsOf =
    some [(0x81, .opcode 0x40)] := by decide

/-- P2's DMA step: three bytes from 0x400 on, and the count 3 posted. -/
theorem test_dmaReceive : (nextOf ({ demo with
      turn := .dma .framerS2mm, descQ := ⟨[], [.s2mm 0x400], [], []⟩, answers := [3, 0x11, 0x22, 0x33] }.dmaStep .framerS2mm)).map
    (fun s => (s.mem.framer, s.descQ.c1, s.cmplQ.c1, s.streamIn.c1)) =
    some ([(0x400, 0x11), (0x401, 0x22), (0x402, 0x33)], [], [3], [[0x11, 0x22, 0x33]]) := by decide

/-- 30 R65: ACK on channel 1, and one line of 30 R64 with a register name. -/
theorem test_assembler :
    (Pseudo.ack .framerS2mm).expand Config.reference = [.regWr 0x26 0] ∧
    assemble Config.reference "REG_WR" [.register .loopback, .number 0x12345] = some (.regWr 0x06 0x12345) := by decide

/-! ## Witnesses: states and operands that meet the hypotheses of each obligation

`w_start` and `w_bus` meet the two premises most statements share; the theorem named after an obligation gives its further
hypotheses, clause by clause. -/

theorem next_with {r : Result} {p : State → Bool} (h : (nextOf r).any p = true) : ∃ s', r = .next s' ∧ p s' = true := by
  cases r with
  | next s => exact ⟨s, rfl, h⟩
  | fault _ => cases h
  | refused _ => cases h

/-- Every program point of every command has a state with the device open. -/
theorem w_start (i : Instr) (p : Point) : (demoAt i p).OpenAt 0 i p (Config.freshTables Config.reference) :=
  openAt ⟨rfl, Nat.zero_lt_one, rfl, rfl⟩

theorem w_with (t : Table) (i : Instr) (p : Point) : (demoWith t i p).OpenAt 0 i p (.all t) :=
  openAt ⟨rfl, Nat.zero_lt_one, rfl, rfl⟩

theorem w_bus (i : Instr) (p : Point) : (demoAt i p).BusReady := busReady ⟨test_reference_config_wf, rfl, rfl⟩

theorem w_busWith (t : Table) (i : Instr) (p : Point) : (demoWith t i p).BusReady := busReady ⟨test_reference_config_wf, rfl, rfl⟩

theorem thread_single {s : State} (h : s.threads.length = 1) {t : Nat} {r : Running}
    (hr : (s.thread t).running = some r) : t = 0 := by
  by_contra ht
  have : s.thread t = Thread.powerOn [] := by
    unfold State.thread
    rw [List.getD_eq_getElem?_getD, List.getElem?_eq_none (by omega)]
    rfl
  rw [this] at hr
  cases hr

/-- `EntryFaults`: an idle thread with the device closed, and one that does not own the channel with the device open. -/
theorem witness_EntryFaults :
    (∃ s : State, s.Idle 0 ∧ ¬ s.IsOpen) ∧
    (∃ s : State, s.Idle 0 ∧ s.IsOpen ∧ 0 ≠ s.cfg.owner.get .framerS2mm) := by
  refine ⟨⟨{ demo with dev := .closed }, idle (by decide), ?_⟩, ⟨demo2 0, idle (by decide), ⟨_, rfl⟩, by decide⟩⟩
  rintro ⟨_, h⟩
  cases h

/-- `IllegalWord`: the word 0 at the pointer of a thread that is next. -/
theorem witness_IllegalWord :
    (fetching demo 0 0).Idle 0 ∧ (fetching demo 0 0).faults = [] ∧ (fetching demo 0 0).configOk = true ∧
    ((fetching demo 0 0).thread 0).stream[((fetching demo 0 0).thread 0).cp]? = some 0 :=
  ⟨idle (by decide), by decide, by decide, by decide⟩

theorem witness_DecodeOfEncode : (Instr.memWr8 .test 0xFFFFFFFFFFFFFFFF 0xFF).wellFormed = true := by decide

theorem witness_EncodeOfDecode : decode 0x3203ffff00000000ffffffffffffffff =
    .ok (.chRelease .deframerS2mm 0xFFFF 0xFFFFFFFFFFFFFFFF) := by decide

theorem witness_DecodeFollowsTheTable :
    ((opcodeTable.any fun r => r.matches 0x03020000000000000000000000000000 &&
      (r.mnemonic == "MEM_RD8") && (fieldCh 0x03020000000000000000000000000000 != 3)) = true) ∧
    ((opcodeTable.all fun r => !r.matches 0) = true) ∧
    ((opcodeTable.any fun r => r.matches 0x04030000000000000000000000000000 &&
      (r.mnemonic == "MEM_WR8") && (fieldCh 0x04030000000000000000000000000000 == 3)) = true) := by decide

/-- One word for each alternative, at the boundary, and one legal word. -/
theorem witness_ReservedEncodings :
    fieldOp 0x27000000000000000000000000000000 = 0x27 ∧
    fieldZ 0x20000000000000010000000000000000 = 1 ∧
    fieldCh 0x40010000000000000000000000000000 = 1 ∧
    fieldA 0x40000001000000000000000000000000 = 1 ∧
    fieldB 0x40000000000000000000000000000001 = 1 ∧
    (fieldCh 0x38040000000000000000000000000000).toNat = 4 ∧
    (fieldCh 0x03030000000000000000000000000000).toNat = 3 ∧
    (fieldA 0x04000100000000000000000000000000).toNat = 256 ∧
    decode 0x040000ff000000000000000000000000 = .ok (.memWr8 .framer 0 0xFF) := by decide

theorem witness_StepRunsDecodedCommand :
    (demoAt .clkGet .start).faults = [] ∧ (demoAt .clkGet .start).configOk = true ∧
    (demoAt .clkGet .start).turn = .host 0 ∧ 0 < (demoAt .clkGet .start).threads.length ∧
    ((demoAt .clkGet .start).thread 0).running = some ⟨.clkGet, .start⟩ ∧
    ((fetching demo 0 0x40000000000000000000000000000000).thread 0).running = none ∧
    ((fetching demo 0 0x40000000000000000000000000000000).thread 0).stream[0]? = some 0x40000000000000000000000000000000 ∧
    decode 0x40000000000000000000000000000000 = .ok .clkGet := by decide

theorem witness_StepRunsOtherAgents :
    demo.faults = [] ∧ demo.configOk = true ∧ { demo with turn := .clock }.turn = .clock ∧
    { demo with turn := .dma .framerMm2s }.descQ.get .framerMm2s = [] ∧
    { demo with turn := .dma .framerMm2s, resetAsserted := true }.resetAsserted = true ∧
    { demo with cfg := { Config.reference with fabricResponds := false } }.cfg.fabricResponds = false ∧
    (∃ s', { demo with turn := .dma .framerMm2s, descQ := .all [.mm2s 0 1] }.dmaStep .framerMm2s = .next s') ∧
    { demo with turn := .loader }.turn = .loader ∧ ({ demo with turn := .loader }.thread 0).running = none ∧
    (demo.thread 0).running = none ∧ (demo.thread 0).stream.length ≤ (demo.thread 0).cp ∧ demo.threads.length ≤ 1 :=
  ⟨rfl, by decide, rfl, rfl, rfl, rfl, next_of (by decide), rfl, rfl, rfl, by decide, by decide⟩

/-- A thread that is next, has no command in progress, and has the encoding of a command at its pointer. -/
def Ready (s : State) (t : Nat) (i : Instr) : Bool :=
  decide (s.turn = .host t ∧ t < s.threads.length ∧ (s.thread t).running = none ∧ s.faults = [] ∧ s.configOk = true ∧
    (s.thread t).stream[(s.thread t).cp]? = some (encode i)) &&
    match decode (encode i) with
    | .ok j => decide (j = i)
    | .error _ => false

/-- In the order of the clauses: OPEN by thread 1; OPEN when open; CLOSE when closed; a command when closed; a command of
another's channel; and OPEN, CLOSE and a table command that start. -/
theorem witness_EntryStepChecks :
    Ready (fetching (demo2 1) 1 (encode (.openDev 1 2))) 1 (.openDev 1 2) = true ∧
    Ready (fetching demo 0 (encode (.openDev 1 2))) 0 (.openDev 1 2) = true ∧
    Ready (fetching { demo with dev := .closed } 0 (encode .closeDev)) 0 .closeDev = true ∧
    Ready (fetching { demo with dev := .closed } 0 (encode (.regRd 6))) 0 (.regRd 6) = true ∧
    Ready (fetching (demo2 1) 1 (encode (.tblBpf .framerMm2s))) 1 (.tblBpf .framerMm2s) = true ∧
      1 ≠ (demo2 1).cfg.owner.get .framerMm2s ∧
    Ready (fetching { demo with dev := .closed } 0 (encode (.openDev 1 2))) 0 (.openDev 1 2) = true ∧
    Ready (fetching demo 0 (encode .closeDev)) 0 .closeDev = true ∧
    Ready (fetching (demo2 1) 1 (encode (.tblBpf .framerS2mm))) 1 (.tblBpf .framerS2mm) = true ∧
      1 = (demo2 1).cfg.owner.get .framerS2mm := by decide

theorem lifecycle_demo {s : State} (h1 : s.threads.length = 1) (tables : PerChan Table) (hd : s.dev = .opened tables)
    (hm : s.mapped = ⟨true, true, true, false⟩) (hb : s.busEnergized = true)
    (hr : ∀ i p, (s.thread 0).running = some ⟨i, p⟩ → i.isLifecycle = true → i = .closeDev) : s.LifecycleInv := by
  refine ⟨fun t i p h _ => thread_single h1 h, ?_⟩
  unfold State.lifecycleOk
  rw [hd]
  exact ⟨hm, hb, hr⟩

theorem lifecycle_demoAt (i : Instr) (p : Point) (hi : i.isLifecycle = true → i = .closeDev) : (demoAt i p).LifecycleInv :=
  lifecycle_demo rfl _ rfl rfl rfl (by rintro j q h; cases h; exact hi)

theorem lifecycle_idle : demo.LifecycleInv := lifecycle_demo rfl _ rfl rfl rfl (by rintro j q h; cases h)

/-- OPEN just before its last step, past the reset pulse, with queues as R139 says. -/
def opening (p : OpenPoint) : State :=
  { demoAt (.openDev 0x1234 7) (.opening p) with dev := .opening, mapped := p.mapped, busEnergized := p.energised }

theorem lifecycle_opening (p : OpenPoint) : (opening p).LifecycleInv := by
  refine ⟨fun t i q h _ => thread_single rfl h, ?_⟩
  exact ⟨0x1234, 7, p, rfl, rfl, rfl⟩

/-- Thread 0 at CLOSE, with thread 1 part-way through CLK_GET. -/
def closing2 : State :=
  { demo2 0 with
    threads := [{ Thread.powerOn [] with running := some ⟨.closeDev, .start⟩ },
      { Thread.powerOn [] with running := some ⟨.clkGet, .clkGet .latchClear⟩ }] }

theorem lifecycle_closing2 : closing2.LifecycleInv := by
  refine ⟨?_, rfl, rfl, ?_⟩
  · rintro (_ | _ | t) i p h hi
    · rfl
    · cases h
      cases hi
    · cases h
  · intro i p h _
    cases h
    rfl

/-- Thread 0 before an OPEN, with thread 1 cut off by an earlier CLOSE. -/
def cut2 : State :=
  { demo2 0 with
    threads := [{ Thread.powerOn [] with running := some ⟨.openDev 0x1234 7, .start⟩ },
      { Thread.powerOn [] with running := some ⟨.clkGet, .cut⟩ }]
    dev := .closed, mapped := ⟨false, false, false, false⟩, busEnergized := false }

theorem lifecycle_cut2 : cut2.LifecycleInv := by
  refine ⟨?_, rfl, rfl, ?_⟩
  · rintro (_ | _ | t) i p h hi
    · rfl
    · cases h
      cases hi
    · cases h
  · intro i p h _
    cases h
    exact ⟨by decide, rfl⟩

theorem cutOff_cut2 : cut2.CutOffInv := by
  rintro - (_ | _ | t) i p h hi
  · cases h
    cases hi
  · cases h
    rfl
  · cases h

/-- 60 R122, D42: CLOSE cuts thread 1's command off, and after a new OPEN its next step faults NOT_OPEN. -/
theorem test_closeDev_cutsOff :
    (nextOf (step closing2)).map (fun s => (s.thread 1).running) = some (some ⟨.clkGet, .cut⟩) ∧
    (nextOf (step { cut2 with turn := .host 1, dev := .opened (Config.freshTables cut2.cfg) })).map faultsOf =
      some [(0x81, .opcode 0x40)] := by decide

/-- A later step while the device is closed, and one of a command that was cut off, after a new OPEN; a CLOSE with another
thread part-way through a command; a step of thread 0 while thread 1 is cut off. -/
theorem witness_LaterStepsCheckOpen :
    (∃ s : State, s.At 0 .clkGet (.clkGet .latchClear) ∧ Instr.clkGet.isLifecycle = false ∧ ¬ s.IsOpen) ∧
    ((demoAt .clkGet .cut).At 0 .clkGet .cut ∧ (demoAt .clkGet .cut).IsOpen) ∧
    (∃ s' : State, closing2.LifecycleInv ∧ step closing2 = .next s' ∧ closing2.IsOpen ∧ ¬ s'.IsOpen ∧
      (closing2.thread 1).running = some ⟨.clkGet, .clkGet .latchClear⟩) ∧
    (cut2.LifecycleInv ∧ cut2.CutOffInv ∧ (cut2.thread 1).running = some ⟨.clkGet, .cut⟩ ∧ cut2.turn ≠ .host 1 ∧
      ∃ s', step cut2 = .next s') := by
  refine ⟨⟨closedAt .clkGet (.clkGet .latchClear), placed (by decide), rfl, by rintro ⟨_, h⟩; cases h⟩,
    ⟨placed (by decide), _, rfl⟩, ?_, lifecycle_cut2, cutOff_cut2, rfl, by decide, next_of (by decide)⟩
  obtain ⟨s', h, hd⟩ := next_with (r := step closing2) (p := fun s => decide (s.dev = .closed)) (by decide)
  refine ⟨s', lifecycle_closing2, h, ⟨_, rfl⟩, ?_, rfl⟩
  rintro ⟨_, e⟩
  rw [of_decide_eq_true hd] at e
  cases e

theorem witness_FaultHaltsTheMachine :
    (∃ s', step (demoAt (.regRd 1) .start) = .next s' ∧ (decide (s'.faults ≠ [])) = true) ∧
    (∃ s', step { demo with turn := .dma .framerMm2s, descQ := .all [.mm2s 1 0] } = .next s' ∧
      (decide (s'.faults ≠ [])) = true) ∧
    { demo with faults := [⟨.notOpen, .host 0, some 0, .opcode 1⟩] }.faults ≠ [] :=
  ⟨next_with (by decide), next_with (by decide), by decide⟩

/-- A step that completes a command, and one that does not; a result register that holds no value, and one that does. -/
theorem witness_PointerMovesByOneAtFinish :
    (∃ s', step (demoAt (.tblBpf .framerMm2s) .start) = .next s' ∧
      (decide ((s'.thread 0).cp = 1 ∧ (s'.thread 0).rv0 = some 256 ∧ (s'.thread 0).rv1 = none)) = true) ∧
    (∃ s', step (demoAt .clkGet .start) = .next s' ∧ (decide ((s'.thread 0).cp = 0)) = true) ∧
    (demo.thread 0).rstat = none :=
  ⟨next_with (by decide), next_with (by decide), rfl⟩

/-- A step of no thread, the LOADER's, and a CLOSE while another thread is part-way through a command. -/
theorem witness_ThreadsAreSeparate :
    (∃ s', step { demo with turn := .clock } = .next s') ∧ (∃ s', step { opening .load with turn := .loader } = .next s') ∧
    (∃ s', step closing2 = .next s') :=
  ⟨next_of (by decide), next_of (by decide), next_of (by decide)⟩

theorem witness_PowerOnValues : 0 < [[(0 : CmdWord)]].length := by decide

/-- The entry step of a table command keeps the turn; a bus step before another bus step does not. -/
theorem witness_InternalStepsKeepTheTurn :
    (∃ s', step (fetching demo 0 (encode (.tblBpf .framerMm2s))) = .next s' ∧
      (s'.faults.isEmpty && (s'.thread 0).running.any Running.atInternal) = true) ∧
    (∃ s', step (demoAt .clkGet .start) = .next s' ∧
      (s'.faults.isEmpty && !(s'.thread 0).running.any Running.atInternal) = true) ∧
    (demoAt .clkGet .start).sched = [.clock] :=
  ⟨next_with (by decide), next_with (by decide), rfl⟩

/-- Every register, with a value it may read. -/
theorem witness_RegReadReturns (r : Reg) :
    (demoAt (.regRd (BitVec.ofNat 16 (Config.reference.off r))) .start).OpenAt 0
      (.regRd (BitVec.ofNat 16 (Config.reference.off r))) .start (Config.freshTables Config.reference) ∧
    (demoAt (.regRd (BitVec.ofNat 16 (Config.reference.off r))) .start).BusReady ∧
    (BitVec.ofNat 16 (Config.reference.off r)).toNat = Config.reference.off r ∧
    ∃ x, (demoAt (.regRd (BitVec.ofNat 16 (Config.reference.off r))) .start).ReadsAs r x := by
  refine ⟨w_start _ _, w_bus _ _, ?_, _, State.readRegister_readsAs test_reference_config_wf r⟩
  cases r <;> first
    | rfl
    | (rename_i k; cases k <;> rfl)

theorem witness_RegisterOffsetChecks :
    (0x41 : Half).toNat % 2 = 1 ∧ (0x40 : Half).toNat % 2 = 0 ∧ Config.reference.regWinBytes ≤ (0x40 : Half).toNat ∧
    (0x12 : Half).toNat % 2 = 0 ∧ (Reg.list.all fun r => decide ((0x12 : Half).toNat ≠ Config.reference.off r)) = true ∧
    (demoAt (.regRd 0x41) .start).cfg.fabricResponds = true := by decide

theorem witness_BusEnergising :
    (opening .energise).At 0 (.openDev 0x1234 7) (.opening .energise) ∧ (opening .energise).cfg.wf = true ∧
    (opening .energise).busEnergized = false ∧
    { demoAt (.regWr 6 1) .start with busEnergized := false }.OpenAt 0 (.regWr 6 1) .start
      (Config.freshTables Config.reference) ∧
    (6 : Half).toNat = Config.reference.off .loopback :=
  ⟨placed (by decide), by decide, rfl, openAt (by decide), by decide⟩

/-- One write for each alternative. -/
theorem witness_RegWriteRefused :
    (0x00 : Half).toNat = Config.reference.off .sentinel ∧ (0x02 : Half).toNat = Config.reference.off .version ∧
    (0x30 : Half).toNat = Config.reference.off .ready ∧
    ((0x04 : Half).toNat = Config.reference.off .reset ∧ (0x20001 : Word64).setWidth 16 = (1 : Half) ∧
      (2 : Word64).setWidth 16 ≠ (0 : Half) ∧ (2 : Word64).setWidth 16 ≠ (1 : Half)) ∧
    ({ demoAt (.regWr 0x20 0) .start with resetAsserted := true }.OpenAt 0 (.regWr 0x20 0) .start
      (Config.freshTables Config.reference) ∧ (0x20 : Half).toNat = Config.reference.off (.ctrl .framerMm2s)) ∧
    ((0x22 : Half).toNat = Config.reference.off (.status .framerMm2s) ∧ (5 : Word64).setWidth 16 ≠ (0 : Half)) ∧
    ((demoAt (.regWr 0x10 4) .start).BadTimeCtrl 4 ∧ (demoAt (.regWr 0x10 3) .start).BadTimeCtrl 3 ∧
      (0x10 : Half).toNat = Config.reference.off .timeCtrl) :=
  ⟨by decide, by decide, by decide, by decide, ⟨openAt (by decide), by decide⟩, by decide,
    ⟨Or.inl (by decide), Or.inr (by decide), by decide⟩⟩

theorem witness_LoopbackAndTimeFieldWrites :
    (0x06 : Half).toNat = Config.reference.off .loopback ∧ (0x0E : Half).toNat = Config.reference.off (.time .t3) := by decide

theorem witness_ResetWrite :
    (0x04 : Half).toNat = Config.reference.off .reset ∧ (0x10001 : Word64).setWidth 16 = (1 : Half) ∧
    (0x10000 : Word64).setWidth 16 = (0 : Half) ∧ (2 : Word64).setWidth 16 ≠ (1 : Half) ∧
    (0x26 : Half).toNat = Config.reference.off (.status .framerS2mm) ∧
    { demo with turn := .dma .framerMm2s, resetAsserted := true }.turn = .dma .framerMm2s := by decide

/-- A channel of each direction; a start offset stored or not; a queue that is full and one that is not. -/
theorem witness_CtrlWrite :
    (0x20 : Half).toNat = Config.reference.off (.ctrl .framerMm2s) ∧ Chan.framerMm2s.dir = .mm2s ∧
    (0x24 : Half).toNat = Config.reference.off (.ctrl .framerS2mm) ∧ Chan.framerS2mm.dir = .s2mm ∧
    (demoAt (.regWr 0x20 0) .start).resetAsserted = false ∧ (demoAt (.regWr 0x20 0) .start).mm2sStart.get .framerMm2s = none ∧
    { demoAt (.regWr 0x20 0) .start with mm2sStart := .all (some 7) }.mm2sStart.get .framerMm2s = some 7 ∧
    ({ demoAt (.regWr 0x20 0) .start with descQ := .all (List.replicate 4 (.mm2s 0 0)) }.descQ.get .framerMm2s).length =
      Config.reference.queueDepth.get .framerMm2s ∧
    ((demoAt (.regWr 0x20 0) .start).descQ.get .framerMm2s).length ≠ Config.reference.queueDepth.get .framerMm2s := by decide

theorem witness_StatusWrite :
    (0x22 : Half).toNat = Config.reference.off (.status .framerMm2s) ∧ (0x10000 : Word64).setWidth 16 = (0 : Half) ∧
    { demoAt (.regWr 0x22 0) .start with cmplQ := .all [5, 6] }.cmplQ.get .framerMm2s = [5, 6] ∧
    (demoAt (.regWr 0x22 0) .start).cmplQ.get .framerMm2s = [] := by decide

/-- Under each edge: no active edge, a latch-in, a latch-out with all fields written and with one missing. -/
theorem witness_TimeCtrlWrite :
    (demoAt (.regWr 0x10 4) .start).BadTimeCtrl 4 ∧ ¬ (demoAt (.regWr 0x10 1) .start).BadTimeCtrl 1 ∧
    ¬ (demoAt (.regWr 0x10 0) .start).Edge 0 1 ∧ ¬ (demoAt (.regWr 0x10 0) .start).Edge 0 2 ∧
    (demoAt (.regWr 0x10 1) .start).Edge 1 1 ∧ ¬ (demoAt (.regWr 0x10 1) .start).Edge 1 2 ∧
    (demoAt (.regWr 0x10 2) .start).Edge 2 2 ∧ ¬ (demoAt (.regWr 0x10 2) .start).Edge 2 1 ∧
    { demoAt (.regWr 0x10 0) .start with cfg := { Config.reference with latchEdge := .falling }, tc := 1 }.Edge 0 1 ∧
    { demoAt (.regWr 0x10 2) .start with wr := .all (some 9) }.wr = ⟨some 9, some 9, some 9, some 9⟩ ∧
    (demoAt (.regWr 0x10 2) .start).wr.get .t3 = none ∧
    (demoAt (.regWr 0x10 2) .start).tc &&& (Config.reference.latchIn ||| Config.reference.latchOut) ≠
      Config.reference.latchIn ||| Config.reference.latchOut ∧
    Config.reference.latchIn = 1 ∧ Config.reference.latchOut = 2 := by
  unfold State.BadTimeCtrl State.Edge
  decide

theorem witness_DeadBusHangs :
    { demoAt (.regRd 6) .start with cfg := { Config.reference with fabricResponds := false } }.OpenAt 0 (.regRd 6) .start
      (Config.freshTables Config.reference) ∧ Running.onBus ⟨.regRd 6, .start⟩ = true ∧
    { opening .energise with cfg := { Config.reference with fabricResponds := false } }.At 0 (.openDev 0x1234 7)
      (.opening .energise) ∧ Running.onBus ⟨.openDev 0x1234 7, .opening .energise⟩ = true ∧
    (Instr.openDev 0x1234 7).isLifecycle = true :=
  ⟨openAt (by decide), by decide, placed (by decide), by decide, rfl⟩

theorem mayAccess_ring (i : Instr) (a : Nat) (ha : a < 0x100) : (demoWith (ring 1 0) i .start).MayAccess (.all (ring 1 0)) 0
    .framer a := by
  refine ⟨Or.inl rfl, rfl, show a < 0x800 by omega, ?_⟩
  intro c hc h1 h2
  cases c with
  | framerMm2s =>
    refine ⟨?_, rfl⟩
    have : (a - Config.reference.base.get .framerMm2s) / Config.reference.frameBytes.get .framerMm2s = 0 :=
      Nat.div_eq_of_lt (show a - 0 < 256 by omega)
    show (ring 1 0).slots[(a - Config.reference.base.get .framerMm2s) / Config.reference.frameBytes.get .framerMm2s]? = _
    rw [this]
    rfl
  | framerS2mm => exact absurd h1 (show ¬ 0x400 ≤ a by omega)
  | deframerMm2s => cases hc
  | deframerS2mm => cases hc

/-- The last byte of an acquired frame, never written and written. -/
theorem witness_MemoryByteRead :
    (demoWith (ring 1 0) (.memRd8 .framer 0xFF) .start).MayAccess (.all (ring 1 0)) 0 .framer (0xFF : Word64).toNat ∧
    (demoWith (ring 1 0) (.memRd8 .framer 0xFF) .start).byteAt .framer 0xFF = none ∧
    { demoWith (ring 1 0) (.memRd8 .framer 0xFF) .start with mem := ⟨[(0xFF, 7)], [], []⟩ }.byteAt .framer 0xFF = some 7 :=
  ⟨mayAccess_ring _ _ (by decide), rfl, rfl⟩

theorem witness_MemoryByteWrite :
    (demoWith (ring 1 0) (.memWr8 .framer 0 0xA5) .start).MayAccess (.all (ring 1 0)) 0 .framer (0 : Word64).toNat :=
  mayAccess_ring _ _ (by decide)

/-- Each check at its boundary: TEST, an unmapped window, the first byte past the window; the first byte of a free slot; and
an acquired slot of another owner. -/
theorem witness_FrameAccessChecks :
    (Window.test ≠ .framer ∧ Window.test ≠ .deframer) ∧
    { demo with mapped := ⟨true, false, true, false⟩ }.mapped.has .framer = false ∧
    demo.cfg.winBytes .framer ≤ (0x800 : Word64).toNat ∧
    ((ring 1 0).slots[(0x100 - 0) / 256]? ≠ some .inFlight ∧ (0x100 : Nat) < demo.cfg.regionEnd .framerMm2s) ∧
    ((ring 1 0).slots[(0x400 - 0x400) / 256]? = some .inFlight ∧ (demo2 0).cfg.base.get .framerS2mm ≤ 0x400 ∧
      (0x400 : Nat) < (demo2 0).cfg.regionEnd .framerS2mm ∧ 0 ≠ (demo2 0).cfg.owner.get .framerS2mm) := by decide

/-! ### The invariants: a state of each kind that meets them, with a step that answers -/

theorem ring_inv : (ring 3 1).Inv 4 256 where
  slots_length := by decide
  lens_length := by decide
  head_lt := by decide
  tail_lt := by decide
  avail_le := by decide
  head_eq := by decide
  free_from_head := by decide
  used_from_tail := by decide
  len_le := by decide

theorem tables_ring (i : Instr) (p : Point) : (demoWith (ring 3 1) i p).TablesInv := by
  intro tables h c
  cases h
  cases c <;> exact ring_inv

theorem witness_MemoryKeepsItsForm :
    { demoWith (ring 1 0) (.memWr8 .framer 0 0xA5) .start with mem := ⟨[(3, 1), (9, 2)], [], []⟩ }.MemoryInv ∧
    (∃ s', step { demoWith (ring 1 0) (.memWr8 .framer 0 0xA5) .start with mem := ⟨[(3, 1), (9, 2)], [], []⟩ } = .next s') :=
  ⟨by unfold State.MemoryInv; decide, next_of (by decide)⟩

theorem witness_TablesKeepTheirInvariant :
    (demoWith (ring 3 1) (.tblMarkTail .framerMm2s 256) .start).TablesInv ∧
    (∃ s', step (demoWith (ring 3 1) (.tblMarkTail .framerMm2s 256) .start) = .next s') ∧ Config.reference.wf = true :=
  ⟨tables_ring _ _, next_of (by decide), by decide⟩

/-- A full queue, and a step that takes from it. -/
theorem witness_QueuesKeepTheirForm :
    { demo with turn := .dma .framerMm2s, descQ := ⟨List.replicate 4 (.mm2s 0 1), [], [], []⟩ }.QueuesInv ∧
    (∃ s', step { demo with turn := .dma .framerMm2s, descQ := ⟨List.replicate 4 (.mm2s 0 1), [], [], []⟩ } = .next s') := by
  refine ⟨?_, next_of (by decide)⟩
  intro c
  cases c <;> exact ⟨by decide, by decide, by decide, by decide⟩

theorem witness_PointsAreOwnAndStepsAnswer :
    (demoWith (ring 1 1) (.chRelease .framerMm2s 0 100) .relEnd).PointsInv ∧
    (demoWith (ring 1 1) (.chRelease .framerMm2s 0 100) .relEnd).faults = [] ∧
    (demoWith (ring 1 1) (.chRelease .framerMm2s 0 100) .relEnd).configOk = true ∧
    (∃ s', step (demoWith (ring 1 1) (.chRelease .framerMm2s 0 100) .relEnd) = .next s') ∧
    { Config.reference with tcOutBit := 0 }.tcInBit = { Config.reference with tcOutBit := 0 }.tcOutBit ∧
    { demo with cfg := { Config.reference with tcOutBit := 0 } }.faults = [] ∧
    { demo with threads := [] }.threads.length ≠ { demo with threads := [] }.cfg.threads := by
  refine ⟨?_, rfl, by decide, next_of (by decide), rfl, rfl, by decide⟩
  intro t r h
  cases thread_single rfl h
  cases h
  decide

/-- 00 R8: a configuration with one bit for both latches, and a reference configuration with no thread, are refused. -/
theorem test_step_refusesIllFormed :
    step { demo with cfg := { Config.reference with tcOutBit := 0 } } = .refused .illFormedConfig ∧
    step { demo with threads := [] } = .refused .illFormedConfig := ⟨rfl, rfl⟩

theorem owners_demo (tb : Table) (i : Instr) (p : Point) : (demoWith tb i p).OwnersInv := by
  intro t j q c h _
  cases thread_single rfl h
  cases c <;> rfl

theorem witness_OnlyOwnersRunChannelCommands :
    (demoWith (ring 1 0) (.chBuffer .framerMm2s 0) .start).OwnersInv ∧
    (∃ s', step (demoWith (ring 1 0) (.chBuffer .framerMm2s 0) .start) = .next s') ∧
    ((demoWith (ring 1 0) (.chBuffer .framerMm2s 0) .start).thread 0).running = some ⟨.chBuffer .framerMm2s 0, .start⟩ ∧
    (Instr.chBuffer .framerMm2s 0).ownedChan = some .framerMm2s :=
  ⟨owners_demo _ _ _, next_of (by decide), rfl, rfl⟩

/-- The three phases: OPEN, OPENING and CLOSED. -/
theorem witness_LifecycleInvariant :
    (demoAt .closeDev .start).LifecycleInv ∧ (∃ s', step (demoAt .closeDev .start) = .next s') ∧
    (opening (.tag true)).LifecycleInv ∧ (∃ s', step (opening (.tag true)) = .next s') ∧
    (closedAt (.openDev 0x1234 7) .start).LifecycleInv ∧ (∃ s', step (closedAt (.openDev 0x1234 7) .start) = .next s') := by
  refine ⟨lifecycle_demoAt _ _ (fun _ => rfl), next_of (by decide), lifecycle_opening _, next_of (by decide), ?_,
    next_of (by decide)⟩
  refine ⟨fun t i q h _ => thread_single rfl h, rfl, rfl, ?_⟩
  rintro i p h -
  cases h
  exact ⟨by decide, rfl⟩

theorem quiet_opening (p : OpenPoint) : (opening p).QuietOpenInv := fun _ _ _ _ _ _ => ⟨rfl, rfl, rfl⟩

/-- A step of the self-test, and the last step of an OPEN whose memory self-test is empty. -/
theorem witness_QueuesStayEmptyAfterResetPulse :
    (opening (.tag true)).LifecycleInv ∧ (opening (.tag true)).QuietOpenInv ∧ (∃ s', step (opening (.tag true)) = .next s') ∧
    (∃ s s' : State, s.LifecycleInv ∧ s.QuietOpenInv ∧ step s = .next s' ∧ s.dev = .opening ∧ s'.IsOpen) := by
  refine ⟨lifecycle_opening _, quiet_opening _, next_of (by decide),
    { opening (.mapTest true) with cfg := { Config.reference with testBytes := 0 }, answers := [1, 0] }, ?_⟩
  obtain ⟨s', h, hd⟩ := next_with (p := fun s => decide (s.dev = .opened (Config.freshTables Config.reference)))
    (r := step { opening (.mapTest true) with cfg := { Config.reference with testBytes := 0 }, answers := [1, 0] }) (by decide)
  exact ⟨s', lifecycle_opening _, quiet_opening _, h, rfl, ⟨_, of_decide_eq_true hd⟩⟩

/-- CH_RELEASE of slot 0 of channel 0 before its second write: the slot is PENDING, the start offset is programmed. -/
def releasing : State :=
  { demoAt (.chRelease .framerMm2s 0 100) .relEnd with
    dev := .opened ⟨ring 1 1, ring 0 0, ring 0 0, ring 0 0⟩, mm2sStart := ⟨some 0, none, none, none⟩ }

theorem corresponds_releasing (c : Chan) : releasing.CorrespondenceInv c := by
  intro tables h
  cases h
  cases c <;> exact
    { counts := by decide
      start := by decide
      holds := by
        intro r hr
        change some (⟨.chRelease .framerMm2s 0 100, .relEnd⟩ : Running) = some r at hr
        cases hr
        decide
      order := by
        intro j d hd
        change ([] : List Desc)[j]? = some d at hd
        simp at hd
      handed := by
        intro h hh
        first
          | (change some (0 : Half) = some h at hh; cases hh; decide)
          | (change (none : Option Half) = some h at hh; cases hh) }

/-- The state after `n` steps. -/
def after : Nat → State → Option State
  | 0, s => some s
  | n + 1, s => (nextOf (step s)).bind (after n)

theorem reaches_after {n : Nat} {s u v : State} (h : Reaches s u) (hv : after n u = some v) : Reaches s v := by
  induction n generalizing u with
  | zero => cases hv; exact h
  | succ n ih =>
    change (nextOf (step u)).bind (after n) = some v at hv
    cases hs : step u with
    | next u' => rw [hs] at hv; exact ih (h.step hs) hv
    | fault _ => rw [hs] at hv; cases hv
    | refused _ => rw [hs] at hv; cases hv

/-- A configuration whose OPEN is short: no self-test, and the image already loaded. -/
def quick : Config := { Config.reference with selftestIters := 0, testBytes := 0, poweronImage := .loaded 0x5A5A 3 }

/-- A run of OPEN from power-on, with no other agent's step in between. -/
def quickRun : State :=
  { State.powerOn quick [[encode (.openDev 0x1234 7)]] with
    turn := .host 0, sched := List.replicate 20 (.host 0)
    answers := [1, 0, 1, 0, 1, 0, 1, 0, 5, 0x1234, 6, 1, 0] }

theorem quickRun_opens : ∃ s, Reaches quickRun s ∧ s.dev = .opened (Config.freshTables quick) ∧
    (s.thread 0).running = none ∧ s.threads.length = 1 := by
  have h : (after 16 quickRun).any (fun s => decide (s.dev = .opened (Config.freshTables quick) ∧
      (s.thread 0).running = none ∧ s.threads.length = 1)) = true := by decide
  cases hs : after 16 quickRun with
  | none => rw [hs] at h; cases h
  | some s =>
    rw [hs] at h
    exact ⟨s, reaches_after (.refl _) hs, of_decide_eq_true h⟩

/-- A step before the second write of a release; the last step of an OPEN while thread 1 is cut off; a channel of which no
command is part-way; and a run from power-on that opens the device. -/
theorem witness_TablesCorrespondToQueues :
    (releasing.IsOpen ∧ releasing.LifecycleInv ∧ releasing.OwnersInv ∧ releasing.PointsInv ∧ releasing.TablesInv ∧
      (∀ c, releasing.NoBreakingCommand c ∧ releasing.CorrespondenceInv c) ∧ ∃ s', step releasing = .next s') ∧
    (∃ s : State, s.dev = .opening ∧ s.LifecycleInv ∧ s.QuietOpenInv ∧ s.CutOffInv ∧
      (s.thread 1).running = some ⟨.chRelease .framerS2mm 0 0, .cut⟩ ∧
      ∃ s', step s = .next s' ∧ (decide (s'.dev = .opened (Config.freshTables Config.reference))) = true) ∧
    (∃ (s : State) (c : Chan) (t : Table), s.Corresponds c t ∧ s.NotPartWay c) ∧
    (∃ (s : State) (tables : PerChan Table), (∀ stream ∈ [[encode (.openDev 0x1234 7)]], ∀ w ∈ stream, ∀ i,
        decode w = .ok i → ∀ c, i.breaks quick c = false) ∧
      Reaches quickRun s ∧ s.dev = .opened tables ∧ ∀ c, s.NotPartWay c) := by
  refine ⟨⟨⟨_, rfl⟩, lifecycle_demo rfl _ rfl rfl rfl (by rintro j q h; cases h; intro h; cases h), ?_, ?_, ?_,
    fun c => ⟨?_, corresponds_releasing c⟩, next_of (by decide)⟩,
    ⟨{ opening (.mapTest true) with
      cfg := { Config.reference with testBytes := 0, threads := 2, owner := ⟨0, 1, 0, 0⟩ }
      threads := [{ Thread.powerOn [] with running := some ⟨.openDev 0x1234 7, .opening (.mapTest true)⟩ },
        { Thread.powerOn [] with running := some ⟨.chRelease .framerS2mm 0 0, .cut⟩ }]
      answers := [1, 0] }, rfl, ⟨?_, ?_⟩, fun _ _ _ _ _ _ => ⟨rfl, rfl, rfl⟩, ?_, rfl, next_with (by decide)⟩,
    ⟨releasing, .framerS2mm, ring 0 0, corresponds_releasing .framerS2mm _ rfl, ?_⟩, ?_⟩
  · intro t j q c h _
    cases thread_single rfl h
    cases c <;> rfl
  · intro t r h
    cases thread_single rfl h
    cases h
    decide
  · intro tables h c
    cases h
    cases c
    · exact ⟨by decide, by decide, by decide, by decide, by decide, by decide, by decide, by decide, by decide⟩
    all_goals exact ⟨by decide, by decide, by decide, by decide, by decide, by decide, by decide, by decide, by decide⟩
  · intro t j q h
    cases thread_single rfl h
    cases h
    rfl
  · rintro (_ | _ | t) i p h hi
    · rfl
    · cases h
      cases hi
    · cases h
  · exact ⟨0x1234, 7, .mapTest true, rfl, rfl, rfl⟩
  · rintro - (_ | _ | t) i p h hi
    · cases h
      cases hi
    · cases h
      rfl
    · cases h
  · intro r h ho
    change some (⟨.chRelease .framerMm2s 0 100, .relEnd⟩ : Running) = some r at h
    cases h
    cases ho
  · obtain ⟨s, hs, hd, hr, hl⟩ := quickRun_opens
    refine ⟨s, _, ?_, hs, hd, ?_⟩
    · intro stream h w hw i hi c
      cases List.mem_singleton.1 h
      cases List.mem_singleton.1 hw
      rw [show decode (encode (.openDev 0x1234 7)) = .ok (.openDev 0x1234 7) by decide] at hi
      cases hi
      rfl
    · intro c r h _
      have h0 := thread_single hl h
      unfold State.ownerRunning at h
      rw [h0, hr] at h
      cases h

theorem witness_InvariantsHoldAtPowerOn : State.reset = State.powerOn Config.reference [[]] := rfl

/-! ### Tables, the poller and the channel controller

`w_start`, `w_with` and `w_bus` place the thread; these give the further hypotheses, clause by clause at a boundary. -/

theorem witness_TableQueries :
    Config.reference.capacity.get .framerMm2s ≤ (4 : Half).toNat ∧ (3 : Half).toNat < Config.reference.capacity.get .framerMm2s := by
  decide

theorem witness_AcquireHeadCommand :
    (ring 4 0).avail = 0 ∧ 0 < (ring 3 0).avail ∧ (ring 3 0).lens[(ring 3 0).head]? = some 256 := by decide

/-- A handle that is out of range, a FREE slot, a slot out of order, and the oldest. -/
theorem witness_MarkReleasedCommand :
    4 ≤ (4 : Half).toNat ∧ (ring 2 0).slots[(2 : Half).toNat]? ≠ some .inFlight ∧
    ((1 : Half).toNat < 4 ∧ (ring 2 0).slots[(1 : Half).toNat]? = some .inFlight ∧
      (1 : Half).toNat ≠ ((ring 2 0).tail + (ring 2 0).slots.count .pending) % 4) ∧
    ((1 : Half).toNat < 4 ∧ (ring 2 1).slots[(1 : Half).toNat]? = some .inFlight ∧
      (1 : Half).toNat = ((ring 2 1).tail + (ring 2 1).slots.count .pending) % 4) := by decide

/-- A full table, an IN_FLIGHT tail, a count one too large, and the largest. -/
theorem witness_MarkTailCommand :
    (ring 0 0).avail = 4 ∧ ((ring 1 0).avail ≠ 4 ∧ (ring 1 0).slots[(ring 1 0).tail]? = some .inFlight) ∧
    ((ring 1 1).slots[(ring 1 1).tail]? = some .pending ∧ 256 < (257 : Word64).toNat ∧ (256 : Word64).toNat ≤ 256) := by decide

/-- A step for each of the four cases: none, an acquire, a release, a mark. -/
theorem witness_SlotsAndCursorsMoveInOrder :
    (demoWith (ring 3 1) (.tblBpf .framerMm2s) .start).TablesInv ∧
    (demoWith (ring 3 1) (.tblBpf .framerMm2s) .start).LifecycleInv ∧
    (∃ s', step (demoWith (ring 3 1) (.tblBpf .framerMm2s) .start) = .next s' ∧
      (decide (table0 s' = some (ring 3 1))) = true) ∧
    (∃ s', step (demoWith (ring 3 1) (.tblAcqHead .framerMm2s) .start) = .next s' ∧
      (decide (table0 s' = some (ring 4 1))) = true) ∧
    (∃ s', step (demoWith (ring 3 1) (.tblMarkRel .framerMm2s 1) .start) = .next s' ∧
      (decide (table0 s' = some (ring 3 2))) = true) ∧
    (∃ s', step (demoWith (ring 3 1) (.tblMarkTail .framerMm2s 256) .start) = .next s' ∧
      (decide (table0 s' = some ((ring 3 1).afterMark 4 256))) = true) :=
  ⟨tables_ring _ _, lifecycle_demo rfl _ rfl rfl rfl (by rintro j q h; cases h; intro h; cases h), next_with (by decide),
    next_with (by decide), next_with (by decide), next_with (by decide)⟩

theorem witness_DrainSteps :
    DrainsChannel (.pollDrain .framerMm2s) .framerMm2s ∧ DrainsChannel (.chAcquire .framerS2mm 5) .framerS2mm ∧
    (demoWith (ring 1 1) (.pollDrain .framerMm2s) .start).DrainAt 0 (.pollDrain .framerMm2s) 0 (.all (ring 1 1)) ∧
    (demoWith (ring 1 1) (.pollDrain .framerMm2s) (.drain (.ready 3))).DrainAt 0 (.pollDrain .framerMm2s) 3
      (.all (ring 1 1)) ∧
    ((PerChan.all [5, 6] : PerChan (List Half)).get .framerS2mm = [5, 6] ∧
      ({ demo with cmplQ := .all [5, 6] }.cmplQ.get .framerMm2s) ≠ []) ∧
    (ring 0 0).avail = Config.reference.capacity.get .framerMm2s ∧ (ring 1 0).slots[(ring 1 0).tail]? = some .inFlight ∧
    (ring 1 1).slots[(ring 1 1).tail]? = some .pending ∧ Config.reference.frameBytes.get .framerMm2s = 256 :=
  ⟨Or.inl rfl, Or.inr (Or.inr ⟨5, rfl⟩), Or.inl ⟨w_with _ _ _, rfl⟩, Or.inr (w_with _ _ _), by decide, by decide, by decide,
    by decide, rfl⟩

theorem witness_DrainEnds :
    (demoAt (.pollDrain .framerMm2s) (.drain (.ready 2))).DrainAt 0 (.pollDrain .framerMm2s) 2
      (Config.freshTables Config.reference) ∧ (demoAt (.pollDrain .framerMm2s) (.drain (.ready 2))).BusReady ∧
    (demoAt (.pollDrain .framerMm2s) (.drain (.ready 2))).cmplQ.get .framerMm2s = [] :=
  ⟨Or.inr (w_start _ _), w_bus _ _, rfl⟩

/-- A drain's first step over a full ring: four PENDING slots and four completions, the S2MM counts at their largest. -/
def fullDrain : State :=
  { demoWith (ring 4 4) (.pollDrain .framerS2mm) .start with cmplQ := .all [256, 0, 1, 256] }

theorem ring44_inv : (ring 4 4).Inv 4 256 :=
  ⟨by decide, by decide, by decide, by decide, by decide, by decide, by decide, by decide, by decide⟩

theorem fullDrain_at : fullDrain.OpenAt 0 (.pollDrain .framerS2mm) .start (.all (ring 4 4)) :=
  openAt ⟨rfl, Nat.zero_lt_one, rfl, rfl⟩

theorem fullDrain_bus : fullDrain.BusReady := busReady ⟨test_reference_config_wf, rfl, rfl⟩

theorem witness_DrainRetiresEveryCompletion :
    fullDrain.OpenAt 0 (.pollDrain .framerS2mm) .start (.all (ring 4 4)) ∧ fullDrain.BusReady ∧
    fullDrain.resetAsserted = false ∧ (ring 4 4).Inv 4 256 ∧
    ([256, 0, 1, 256] : List Half).length ≤ (ring 4 4).pendingCount ∧
    (∀ x ∈ ([256, 0, 1, 256] : List Half), x.toNat ≤ 256) :=
  ⟨fullDrain_at, fullDrain_bus, rfl, ring44_inv, Nat.le_of_eq rfl, by simp⟩

theorem witness_TryAcquireCommand :
    (demoWith (ring 3 0) (.chTryAcquire .framerMm2s) .start).DrainAt 0 (.chTryAcquire .framerMm2s) 0 (.all (ring 3 0)) ∧
    (demoWith (ring 3 0) (.chTryAcquire .framerMm2s) .start).cmplQ.get .framerMm2s = [] ∧ (ring 4 0).avail = 0 ∧
    0 < (ring 3 0).avail ∧ (ring 3 0).lens[(ring 3 0).head]? = some 256 :=
  ⟨Or.inl ⟨w_with _ _ _, rfl⟩, rfl, by decide, by decide, by decide⟩

theorem witness_AcquireCommand :
    (demoWith (ring 4 0) (.chAcquire .framerMm2s 1) .start).DrainAt 0 (.chAcquire .framerMm2s 1) 0 (.all (ring 4 0)) ∧
    (demoWith (ring 4 0) (.chAcquire .framerMm2s 1) .start).cmplQ.get .framerMm2s = [] ∧ (ring 4 0).avail = 0 ∧
    0 < (ring 3 0).avail ∧ (ring 3 0).lens[(ring 3 0).head]? = some 256 ∧ (1 : Word64) ≠ 0 ∧
    (1 : Word64).getLsbD 0 = true ∧ (2 : Word64).getLsbD 0 = false :=
  ⟨Or.inl ⟨w_with _ _ _, rfl⟩, rfl, by decide, by decide, by decide, by decide, by decide, by decide⟩

/-- Slot 0 of each direction, an MM2S length of F[c], room for one more descriptor. -/
theorem witness_ReleaseCommand :
    (demoWith (ring 1 0) (.chRelease .framerMm2s 0 256) .start).resetAsserted = false ∧ (0 : Half).toNat < 4 ∧
    (ring 1 0).slots[(0 : Half).toNat]? = some .inFlight ∧
    (0 : Half).toNat = ((ring 1 0).tail + (ring 1 0).slots.count .pending) % 4 ∧
    (demoWith (ring 1 0) (.chRelease .framerMm2s 0 256) .start).mm2sStart.get .framerMm2s = none ∧
    ({ demo with descQ := .all (List.replicate 3 (.s2mm 0)) }.descQ.get .framerS2mm).length <
      Config.reference.queueDepth.get .framerS2mm ∧
    Chan.framerMm2s.dir = .mm2s ∧ Chan.framerS2mm.dir = .s2mm ∧
    (256 : Word64).toNat ≤ Config.reference.frameBytes.get .framerMm2s ∧
    ({ demoWith (ring 1 1) (.chRelease .framerMm2s 0 256) .relStart with mm2sStart := .all (some 7) }.mm2sStart.get
      .framerMm2s = some 7 ∧
      ((demoWith (ring 1 1) (.chRelease .framerMm2s 0 256) .relStart).descQ.get .framerMm2s).length ≠
        Config.reference.queueDepth.get .framerMm2s) := by decide

/-- V43-18, a release after a raw write of a start: its first write completes a descriptor, its second leaves a start. -/
theorem test_chRelease_shifted :
    (nextOf (execChRelease .framerMm2s 0 100 { demoWith (ring 1 1) (.chRelease .framerMm2s 0 100) .relStart with
      mm2sStart := ⟨some 0x200, none, none, none⟩ })).map (fun s => (s.descQ.c0, s.mm2sStart.c0)) =
      some ([.mm2s 0x200 0], none) ∧
    (nextOf (execChRelease .framerMm2s 0 100 { demoWith (ring 1 1) (.chRelease .framerMm2s 0 100) .relEnd with
      descQ := ⟨[.mm2s 0x200 0], [], [], []⟩ })).map (fun s => (s.descQ.c0, s.mm2sStart.c0)) =
      some ([.mm2s 0x200 0], some 0x64) := by decide

theorem witness_ReleaseFaults :
    4 ≤ (4 : Half).toNat ∧ (ring 2 1).slots[(0 : Half).toNat]? ≠ some .inFlight ∧
    ((ring 2 0).slots[(1 : Half).toNat]? = some .inFlight ∧
      (1 : Half).toNat ≠ ((ring 2 0).tail + (ring 2 0).slots.count .pending) % 4) ∧
    Config.reference.frameBytes.get .framerMm2s < (257 : Word64).toNat ∧
    { demo with resetAsserted := true }.resetAsserted = true ∧
    ({ demo with descQ := .all (List.replicate 4 (.s2mm 0)) }.descQ.get .framerS2mm).length =
      Config.reference.queueDepth.get .framerS2mm ∧
    { demo with mm2sStart := .all (some 0) }.mm2sStart.get .framerMm2s ≠ none := by decide

theorem witness_BufferCommand :
    Config.reference.capacity.get .framerMm2s ≤ (4 : Half).toNat ∧ (ring 1 0).slots[(1 : Half).toNat]? ≠ some .inFlight ∧
    (3 : Half).toNat < Config.reference.capacity.get .framerMm2s ∧ (ring 4 0).slots[(3 : Half).toNat]? = some .inFlight := by
  decide

/-! ### The fabric, the clock and the lifecycle -/

/-- An end before the start, an end one past the window, and the largest end, with a byte that agrees and one written. -/
theorem witness_DmaSendStep :
    demo.cfg.fabricResponds = true ∧ demo.resetAsserted = false ∧ Chan.framerMm2s.dir = .mm2s ∧
    { demo with turn := .dma .framerMm2s, descQ := .all [.mm2s 0x7FF 0x800] }.descQ.get .framerMm2s = [.mm2s 0x7FF 0x800] ∧
    (0 : Half).toNat < (1 : Half).toNat ∧ demo.cfg.winBytes .framer < (0x801 : Half).toNat ∧
    (0x7FF : Half).toNat ≤ (0x800 : Half).toNat ∧ (0x800 : Half).toNat ≤ demo.cfg.winBytes .framer ∧
    ([0xA5] : List Byte).length = (0x800 : Half).toNat - (0x7FF : Half).toNat ∧
    demo.byteAt .framer (0x7FF + 0) = none ∧ { demo with mem := ⟨[(0x7FF, 0xA5)], [], []⟩ }.byteAt .framer (0x7FF + 0) =
      some 0xA5 := by decide

/-- The byte and the count of a send are what the draws answer. -/
theorem test_dmaSend :
    (nextOf ({ demo with
      turn := .dma .framerMm2s, descQ := ⟨[.mm2s 0x7FF 0x800], [], [], []⟩, answers := [0xA5, 9] }.dmaStep .framerMm2s)).map
    (fun s => (s.descQ.c0, s.streamOut.c0, s.cmplQ.c0)) = some ([], [[0xA5]], [9]) := by decide

theorem witness_DmaReceiveStep :
    Chan.framerS2mm.dir = .s2mm ∧
    { demo with turn := .dma .framerS2mm, descQ := .all [.s2mm 0x700] }.descQ.get .framerS2mm = [.s2mm 0x700] ∧
    256 ≤ demo.cfg.frameBytes.get .framerS2mm ∧ { demo with answers := [256] }.answers = [BitVec.ofNat 64 256] ∧
    demo.cfg.winBytes .framer < (0x701 : Half).toNat + 256 ∧ (0x700 : Half).toNat + 256 ≤ demo.cfg.winBytes .framer ∧
    { demo with answers := [2, 0x11, 0x22, 7] }.answers =
      BitVec.ofNat 64 ([0x11, 0x22] : List Byte).length :: ([0x11, 0x22] : List Byte).map (BitVec.setWidth 64) ++ [7] := by decide

theorem witness_LoadStep :
    0 < (opening .load).threads.length ∧ ((opening .load).thread 0).running = some ⟨.openDev 0x1234 7, .opening .load⟩ ∧
    (opening .load).turn = .host 0 ∧ { opening .load with turn := .loader }.turn = .loader ∧
    { opening .load with answers := [9] }.answers = [9] := by decide

/-- Under each edge, the bit of `tc` that does not stand in the way of the pulse of a get, and of a set. -/
theorem witness_ClockGet :
    (demoAt .clkGet .start).PulseWorks 1 2 ∧ { demoAt .clkGet .start with tc := 2 }.PulseWorks 1 2 ∧
    { demoAt .clkGet .start with cfg := { Config.reference with latchEdge := .falling }, tc := 1 }.PulseWorks 1 2 ∧
    Config.reference.latchIn = 1 ∧ Config.reference.latchOut = 2 :=
  ⟨rfl, rfl, rfl, by decide, by decide⟩

theorem witness_ClockSet :
    (demoAt (.clkSet 1234567) .start).PulseWorks 2 1 ∧ { demoAt (.clkSet 1234567) .start with tc := 1 }.PulseWorks 2 1 ∧
    { demoAt (.clkSet 1234567) .start with cfg := { Config.reference with latchEdge := .falling }, tc := 2 }.PulseWorks 2 1 :=
  ⟨rfl, rfl, rfl⟩

theorem num : (1234567 : Word64).toNat = 1234567 := rfl

/-- Under each edge, without wrap and with no tick between the edges. -/
theorem witness_SetThenGetWithinOneTick :
    (demoAt (.clkSet 1234567) .start).OpenAt 0 (.clkSet 1234567) .start (Config.freshTables Config.reference) ∧
    ((demoAt (.clkSet 1234567) .start).PulseWorks 2 1 ∧ { demoAt (.clkSet 1234567) .start with tc := 1 }.PulseWorks 2 1) ∧
    ceilDiv ((1234567 : Word64).toNat * Config.reference.clockRateHz) 1000000000 + 0 < 2 ^ 64 ∧
    ceilDiv ((1234567 : Word64).toNat * Config.reference.clockRateHz) 1000000000 * 1000000000 / Config.reference.clockRateHz <
      2 ^ 64 ∧
    { demoAt (.clkSet 1234567) .start with cfg := { Config.reference with latchEdge := .falling } }.BusReady :=
  ⟨w_start _ _, ⟨witness_ClockSet.1, witness_ClockSet.2.1⟩, by rw [num]; norm_num [ceilDiv, Config.reference],
    by rw [num]; norm_num [ceilDiv, Config.reference],
    busReady ⟨by decide, rfl, rfl⟩⟩

theorem witness_OpenBringUpSteps :
    (closedAt (.openDev 0x1234 7) .start).At 0 (.openDev 0x1234 7) .start ∧
    (∀ p, (opening p).At 0 (.openDev 0x1234 7) (.opening p)) ∧
    { opening (.map .framer) with answers := [0, 9] }.answers = [0, 9] ∧ (0 : Word64).getLsbD 0 = false ∧
    (1 : Word64).getLsbD 0 = true ∧ (opening .sentinel).BusReady ∧
    (0 : Half) ≠ Config.reference.sentinelExpected ∧ (2 : Half) ≠ Config.reference.versionExpected :=
  ⟨placed (by decide), fun _ => placed ⟨rfl, Nat.zero_lt_one, rfl⟩, rfl, by decide, by decide, busReady (by decide), by decide,
    by decide⟩

theorem witness_OpenSelfTestSteps :
    (opening (.save true)).BusReady ∧ { opening (.mapTest true) with answers := [1, 0] }.answers = [1, 0] ∧
    (0xFF : Nat) < Config.reference.testBytes ∧ Config.reference.testBytes ≤ 0xFF + 1 ∧
    { Config.reference with testBytes := 0 }.testBytes = 0 :=
  ⟨busReady (by decide), rfl, by decide, by decide, rfl⟩

/-- The check reads of a loaded image and a tag that is there; and of an UNKNOWN image and no tag, whose draws match. -/
theorem witness_OpenWithoutReload :
    (closedAt (.openDev 0x1234 7) .start).At 0 (.openDev 0x1234 7) .start ∧ Config.reference.wf = true ∧
    Config.reference.fabricResponds = true ∧ Config.reference.fabricFaithful = true ∧
    (closedAt (.openDev 0x1234 7) .start).ChecksRead Config.reference.sentinelExpected Config.reference.versionExpected
      ((0x1234 : Word64).setWidth 16) [] ∧
    { closedAt (.openDev 0x1234 7) .start with image := .unknown, loopback := none }.ChecksRead
      Config.reference.sentinelExpected Config.reference.versionExpected ((0x1234 : Word64).setWidth 16) [0x5A5A, 3, 0x1234] ∧
    { closedAt (.openDev 0x1234 7) .start with answers := [1, 0, 1, 0, 1, 0, 1, 0, 5, 6, 1, 0] }.answers =
      [1, 0, 1, 0, 1, 0, 1, 0, 5] ++ [] ++ [6, 1, 0] ++ [] ∧
    (∀ ok ∈ [(1 : Word64), 1, 1, 1, 1], ok.getLsbD 0 = true) :=
  ⟨placed (by decide), by decide, rfl, rfl, ⟨[], [], rfl, Or.inl ⟨by decide, rfl⟩, Or.inl ⟨by decide, rfl⟩⟩,
    ⟨[0x5A5A, 3], [0x1234], rfl, Or.inr ⟨rfl, by decide⟩, Or.inr ⟨rfl, by decide⟩⟩, rfl, by simp⟩

/-- A tag that does not match; and the image and loopback at power-on, whose draws do not match. -/
theorem witness_OpenWithOneReload :
    (0x9999 : Word64).setWidth 16 ≠ (0x1234 : Half) ∧
    (closedAt (.openDev 0x9999 7) .start).At 0 (.openDev 0x9999 7) .start ∧
    (closedAt (.openDev 0x9999 7) .start).ChecksRead 0x5A5A 3 0x1234 [] ∧
    { closedAt (.openDev 0x9999 7) .start with image := .unknown, loopback := none }.ChecksRead 0 3 0x9999 [0, 3, 0x9999] ∧
    (0 : Half) ≠ Config.reference.sentinelExpected ∧
    Config.reference.imgSentinel = Config.reference.sentinelExpected ∧
    Config.reference.imgVersion = Config.reference.versionExpected ∧
    { closedAt (.openDev 0x9999 7) .start with answers := [1, 0, 1, 0, 1, 0, 1, 0, 5, 8, 6, 1, 0] }.answers =
      [1, 0, 1, 0, 1, 0, 1, 0, 5] ++ [] ++ [8, 6, 1, 0] ++ [] :=
  ⟨by decide, placed (by decide), ⟨[], [], rfl, Or.inl ⟨rfl, rfl⟩, Or.inl ⟨rfl, rfl⟩⟩,
    ⟨[0, 3], [0x9999], rfl, Or.inr ⟨rfl, by decide⟩, Or.inr ⟨rfl, by decide⟩⟩, by decide, rfl, rfl, rfl⟩

theorem witness_CloseCommand :
    (∃ s : State, s.Idle 1 ∧ (1 : Nat) ≠ 0) ∧ (∃ s : State, s.Idle 0 ∧ ¬ s.IsOpen) ∧ (demo.Idle 0 ∧ demo.IsOpen) ∧
    (demoAt .closeDev .start).At 0 .closeDev .start ∧ closing2.At 0 .closeDev .start := by
  refine ⟨⟨demo2 1, idle (by decide), by decide⟩, ⟨{ demo with dev := .closed }, idle (by decide), ?_⟩,
    ⟨idle (by decide), _, rfl⟩, placed (by decide), placed (by decide)⟩
  rintro ⟨_, h⟩
  cases h

/-- The memory of the state after reset is in canonical form. -/
theorem test_reset_mem_wf : State.reset.mem.wf = true := by decide

end Sys2Proof.Tests
end

section
/-! PROOFS. What the step of an agent leaves of the run's parameters and of the host threads (spec 10 R14, R15, R20), and the
statement about the turn (00 R12). -/

namespace Sys2Proof.Machine

open Sys2Proof

variable {s s' u v : State} {i : Instr}

/-! ### What a step leaves before it moves its own thread on -/

/-- `u` has the turn, the schedule and the host threads of `s`. -/
structure State.SameHosts (s u : State) : Prop where
  turn : u.turn = s.turn
  sched : u.sched = s.sched
  threads : u.threads = s.threads

theorem State.SameHosts.refl (s : State) : s.SameHosts s := ⟨rfl, rfl, rfl⟩

theorem State.SameHosts.trans (h : s.SameHosts u) (k : u.SameHosts v) : s.SameHosts v :=
  ⟨k.turn.trans h.turn, k.sched.trans h.sched, k.threads.trans h.threads⟩

theorem State.DrawsOnly.sameHosts (h : s.DrawsOnly u) : s.SameHosts u := by
  rw [h]; exact ⟨rfl, rfl, rfl⟩

theorem State.Reads.sameHosts (h : s.Reads u) : s.SameHosts u := by
  rw [h.1]; exact ⟨rfl, rfl, rfl⟩

theorem State.writeRegister_sameHosts {r : Reg} {off : Nat} {x : Half} (h : s.writeRegister r off x = .done () u) :
    s.SameHosts u := by
  obtain ⟨-, ht, hs, hth, -⟩ := State.writeRegister_sameBlock h
  exact ⟨ht, hs, hth⟩

theorem State.writeCtrl_sameHosts {c : Chan} {off : Nat} {x : Half} (h : s.writeCtrl c off x = .done () u) :
    s.SameHosts u :=
  State.writeRegister_sameHosts (r := .ctrl c) h

theorem State.setTable_sameHosts (s : State) (tables : PerChan Table) (c : Chan) (t : Table) :
    s.SameHosts (s.setTable tables c t) := ⟨rfl, rfl, rfl⟩

theorem State.mapDone_sameHosts (s : State) (m : MapStep) : s.SameHosts (s.mapDone m) := by
  cases m <;> exact ⟨rfl, rfl, rfl⟩

theorem State.load_sameHosts (s : State) : s.SameHosts s.load :=
  ⟨s.draw_turn, s.draw_sched, s.draw_threads⟩

theorem State.dmaStep_sameHosts {c : Chan} (h : s.dmaStep c = .next s') : s.SameHosts s' := by
  rcases State.dmaStep_cases h with rfl | ⟨_, _, rfl⟩ | ⟨-, _, _, _, _, _, u, -, hu, rfl⟩ | ⟨-, _, _, _, _, u, -, hu, rfl⟩
  · exact .refl _
  · exact ⟨rfl, rfl, rfl⟩
  all_goals exact hu.sameHosts.trans ⟨rfl, rfl, rfl⟩

/-! ### What a step does to the thread that makes it -/

/-- The ways in which one step of command `i` moves on the thread that makes it. Before that it leaves `u`, which has the
host threads of `s`; only CLOSE touches the other threads' commands (60 R122). -/
inductive State.HostMove (s : State) (i : Instr) : State → Prop
  | stay (u : State) (hu : s.SameHosts u) : s.HostMove i u
  | goto (u : State) (p : Point) (hu : s.SameHosts u) (hp : Running.ownPoint ⟨i, p⟩ = true) : s.HostMove i (u.goto i p)
  | finish (u : State) (st : Status) (v0 v1 : Option Word64) (hu : s.SameHosts u) : s.HostMove i (u.finished st v0 v1)
  | close (u : State) (st : Status) (v0 v1 : Option Word64) (hu : s.SameHosts u) :
      s.HostMove i (u.cutOff.finished st v0 v1)

theorem Running.ownPoint_start (i : Instr) : Running.ownPoint ⟨i, .start⟩ = true := by cases i <;> rfl

theorem Running.ownPoint_drain {c : Chan} (h : Instr.drains i c) (d : DrainPoint) :
    Running.ownPoint ⟨i, .drain d⟩ = true := by
  rcases h with rfl | rfl | ⟨us, rfl⟩ <;> rfl

theorem Running.ownPoint_cut (h : i.isLifecycle = false) : Running.ownPoint ⟨i, .cut⟩ = true := by
  cases i <;> first | rfl | cases h

/-- Every move of a command takes its thread to a program point of that command, completes it, or leaves it in place. -/
theorem State.Move.hostMove (h : s.Move i s') : s.HostMove i s' := by
  cases h with
  | halt => exact .stay _ ⟨rfl, rfl, rfl⟩
  | stay => exact .stay _ (.refl s)
  | enter | enterOpen | enterClose => exact .goto s _ (.refl s) (Running.ownPoint_start _)
  | regRd off tables u x h hd hu => exact .finish u _ _ _ hu.sameHosts
  | regWr off value tables r u h hd hr hu => exact .finish u _ _ _ (State.writeRegister_sameHosts hu)
  | memRd8 w a tables u x h hd hu => exact .finish u _ _ _ hu.sameHosts
  | memWr8 => exact .finish _ _ _ _ ⟨rfl, rfl, rfl⟩
  | query => exact .finish s _ _ _ (.refl s)
  | acqHead | markRel | markTail => exact .finish _ _ _ _ (State.setTable_sameHosts ..)
  | drainSeen _ c tables p q u n hi h hd hp hu hne hq =>
    refine .goto u q hu.sameHosts ?_
    rcases hq with ⟨amount, rfl⟩ | rfl <;> exact Running.ownPoint_drain hi _
  | drainStatus _ c tables u n x hi h hd hu => exact .goto u _ hu.sameHosts (Running.ownPoint_drain hi _)
  | drainMark _ c tables n amount hi => exact .goto _ _ (State.setTable_sameHosts ..) (Running.ownPoint_drain hi _)
  | drainAck _ c tables n hi => exact .goto _ _ ⟨rfl, rfl, rfl⟩ (Running.ownPoint_drain hi _)
  | drainEnd _ c tables p u n st v0 v1 hi h hd hp hu => exact .finish u _ _ _ hu.sameHosts
  | drainAcquire _ c tables p u n v0 v1 hi hne h hd hp hu =>
    exact .finish _ _ _ _ (hu.sameHosts.trans (State.setTable_sameHosts ..))
  | drainWait c us tables p u n h hd hp hu => exact .goto u _ hu.sameHosts rfl
  | waited => exact .goto s _ (.refl s) rfl
  | relMark => exact .goto _ _ (State.setTable_sameHosts ..) rfl
  | relFirst c h length tables u hc hd hm hu =>
    exact .goto u _ (State.writeCtrl_sameHosts hu) (decide_eq_true hm)
  | relOnly c h length tables u hc hd hm hu => exact .finish u _ _ _ (State.writeCtrl_sameHosts hu)
  | relSecond c h length tables u hc hd hu => exact .finish u _ _ _ (State.writeCtrl_sameHosts hu)
  | clkWrite _ tables p q r x u hi h hd hr hu =>
    refine .goto u q (State.writeRegister_sameHosts hu) ?_
    rcases hi with ⟨rfl, x, rfl⟩ | ⟨ns, rfl, x, rfl⟩ <;> rfl
  | clkRead tables p q u h hd hu => exact .goto u _ hu.sameHosts rfl
  | clkGot tables p u v0 v1 h hd hu => exact .finish u _ _ _ hu.sameHosts
  | clkDone ns tables p x u v0 h hd hu => exact .finish u _ _ _ (State.writeRegister_sameHosts hu)
  | close => exact .close s.unwind _ _ _ ⟨rfl, rfl, rfl⟩
  | openStart => exact .goto { s with dev := .opening } _ ⟨rfl, rfl, rfl⟩ rfl
  | openMap hash seed m u h hu => exact .goto _ _ (hu.sameHosts.trans (u.mapDone_sameHosts m)) rfl
  | openFail hash seed p u st v0 v1 h hu => exact .finish u.unwind _ _ _ (hu.sameHosts.trans ⟨rfl, rfl, rfl⟩)
  | openRead hash seed p q u h hu => exact .goto u _ hu.sameHosts rfl
  | openWrite hash seed p q r x u h he hr hu => exact .goto u _ (State.writeRegister_sameHosts hu) rfl
  | openTest hash seed loaded u h hu => exact .goto u.testMapped _ (hu.sameHosts.trans ⟨rfl, rfl, rfl⟩) rfl
  | openTestEnd hash seed loaded u h hu => exact .finish _ _ _ _ (hu.sameHosts.trans ⟨rfl, rfl, rfl⟩)
  | openMemWrite => exact .goto _ _ ⟨rfl, rfl, rfl⟩ rfl
  | openMemWriteEnd => exact .finish _ _ _ _ ⟨rfl, rfl, rfl⟩
  | openMemRead hash seed loaded k j u h hu => exact .goto u _ hu.sameHosts rfl
  | openMemReadEnd hash seed loaded k u h hu => exact .finish _ _ _ _ (hu.sameHosts.trans ⟨rfl, rfl, rfl⟩)

/-- No step of a command chooses the next agent: that is `schedule` alone. -/
theorem State.HostMove.turn_sched (h : s.HostMove i s') : s'.turn = s.turn ∧ s'.sched = s.sched := by
  cases h with
  | stay u hu => exact ⟨hu.turn, hu.sched⟩
  | goto u p hu hp => exact ⟨hu.turn, hu.sched⟩
  | finish u st v0 v1 hu => exact ⟨hu.turn, hu.sched⟩
  | close u st v0 v1 hu => exact ⟨hu.turn, hu.sched⟩

/-- No step of a host thread chooses the next agent. -/
theorem agentStep_turn_sched {t : Nat} (hwf : s.cfg.wf = true) (ht : s.turn = .host t) (h : agentStep s = .next s') :
    s'.turn = s.turn ∧ s'.sched = s.sched := by
  rcases agentStep_cases hwf h with rfl | ⟨_, _, rfl⟩ | ⟨_, _, -, -, hm⟩ | ⟨c, hc, -⟩ | ⟨hc, -⟩ | ⟨hc, -⟩
  · exact ⟨rfl, rfl⟩
  · exact ⟨rfl, rfl⟩
  · exact hm.hostMove.turn_sched
  all_goals rw [ht] at hc; cases hc

/-! ### The choice of the next agent, case by case (10 R14, 00 R12) -/

theorem State.keepsTurn_of_host {t : Nat} (h : s.turn = .host t) :
    s.keepsTurn = (s.thread t).running.any Running.atInternal := by
  simp [State.keepsTurn, h]

theorem State.schedule_of_keepsTurn (h : s.keepsTurn = true) : s.schedule = s := by
  simp [State.schedule, h]

theorem State.schedule_of_sched {a : Agent} {rest : List Agent} (hf : s.faults = []) (hk : s.keepsTurn = false)
    (hs : s.sched = a :: rest) : s.schedule = { s with turn := a, sched := rest } := by
  simp [State.schedule, hf, hk, hs]

theorem State.configOk_wf (h : s.configOk = true) : s.cfg.wf = true := by
  rw [State.configOk, Bool.and_eq_true] at h
  exact h.1

/-- Settles O14: the agent's own step leaves the turn and the schedule, and `schedule` then goes by whether the thread is
before an internal step. -/
theorem internalStepsKeepTheTurn : Obligations.InternalStepsKeepTheTurn := by
  unfold Obligations.InternalStepsKeepTheTurn
  intro s s' t h ht hf
  obtain ⟨-, hc, u, hu, rfl⟩ := step_next h
  obtain ⟨hturn, hsched⟩ := agentStep_turn_sched (State.configOk_wf hc) ht hu
  have hut : u.turn = .host t := hturn.trans ht
  have hk := State.keepsTurn_of_host hut
  simp only [State.schedule_thread, State.schedule_faults] at hf ⊢
  constructor
  · intro r hr hi
    rw [State.schedule_of_keepsTurn (by simp [hk, hr, hi])]
    exact ⟨hut, hsched⟩
  · intro hn a rest hs
    have hk : u.keepsTurn = false := by simpa [hk, Option.any_eq_false] using hn
    rw [State.schedule_of_sched hf hk (hsched.trans hs)]
    exact ⟨rfl, rfl⟩

end Sys2Proof.Machine
end

section
/-! PROOFS. Every command in progress stays at a program point of its own (spec 10 R20), from such a point no command is
refused, and the accepted configurations are those of 00 R8 in the ranges of 00 R7. -/

namespace Sys2Proof.Machine

open Sys2Proof

variable {s s' u : State} {i : Instr}

/-! ### Points of its own are kept -/

theorem State.running_setThread_cases {t k : Nat} {th : Thread} {r : Running}
    (h : ((s.setThread t th).thread k).running = some r) : th.running = some r ∨ (s.thread k).running = some r := by
  by_cases hk : k = t
  · subst hk
    by_cases hlt : k < s.threads.length
    · rw [State.thread_setThread_same s th hlt] at h
      exact .inl h
    · rw [State.setThread, List.set_eq_of_length_le (by omega)] at h
      exact .inr h
  · rw [State.thread_setThread_ne s th hk] at h
    exact .inr h

theorem State.thread_congr (h : u.threads = s.threads) (t : Nat) : u.thread t = s.thread t := by
  rw [State.thread, State.thread, h]

theorem State.PointsInv.of_threads (h : s.PointsInv) (hu : u.threads = s.threads) : u.PointsInv := by
  intro t r hr
  rw [State.thread_congr hu] at hr
  exact h t r hr

theorem State.PointsInv.putAt (h : s.PointsInv) {p : Point} (hp : Running.ownPoint ⟨i, p⟩ = true) (t : Nat) :
    (s.putAt t i p).PointsInv := by
  intro k r hr
  rcases State.running_setThread_cases hr with hr | hr
  · cases hr; exact hp
  · exact h k r hr

theorem State.PointsInv.finished (h : s.PointsInv) (st : Status) (v0 v1 : Option Word64) :
    (s.finished st v0 v1).PointsInv := by
  intro k r hr
  rcases State.running_setThread_cases hr with hr | hr
  · cases hr
  · exact h k r hr

theorem State.PointsInv.cutOff (h : s.PointsInv) : s.cutOff.PointsInv := by
  intro k r hr
  rw [State.cutOff_thread] at hr
  rcases Thread.cutOff_cases hr with ⟨hr, -⟩ | ⟨hl, hp, -⟩
  · exact h k r hr
  · obtain ⟨j, p⟩ := r
    cases hp
    exact Running.ownPoint_cut hl

theorem State.HostMove.pointsInv (h : s.HostMove i s') (hs : s.PointsInv) : s'.PointsInv := by
  cases h with
  | stay u hu => exact hs.of_threads hu.threads
  | goto u p hu hp => exact (hs.of_threads hu.threads).putAt hp _
  | finish u st v0 v1 hu => exact (hs.of_threads hu.threads).finished _ _ _
  | close u st v0 v1 hu => exact (hs.of_threads hu.threads).cutOff.finished _ _ _

theorem agentStep_pointsInv (hwf : s.cfg.wf = true) (hs : s.PointsInv) (h : agentStep s = .next s') : s'.PointsInv := by
  rcases agentStep_cases hwf h with rfl | ⟨_, _, rfl⟩ | ⟨_, _, -, -, hm⟩ | ⟨c, -, hd⟩ | ⟨-, rfl⟩ | ⟨-, hl⟩
  · exact hs
  · exact hs.of_threads rfl
  · exact hm.hostMove.pointsInv hs
  · exact hs.of_threads (State.dmaStep_sameHosts hd).threads
  · exact hs.of_threads rfl
  · rcases State.loaderStep_cases hl with rfl | ⟨hash, seed, -, rfl⟩
    · exact hs
    · exact (hs.of_threads s.load_sameHosts.threads).putAt rfl 0

theorem step_pointsInv (hs : s.PointsInv) (h : step s = .next s') : s'.PointsInv := by
  obtain ⟨-, hc, u, hu, rfl⟩ := step_next h
  exact (agentStep_pointsInv (State.configOk_wf hc) hs hu).of_threads u.schedule_threads

/-! ### Shared operations that answer a next state -/

/-- The result is a next state: no refusal, and no stop. -/
def Answers (r : Result) : Prop := ∃ s', r = .next s'

theorem answers_next (s : State) : Answers (.next s) := ⟨s, rfl⟩

theorem State.raise_answers (s : State) (code : FaultCode) (info : FaultInfo) : Answers (s.raise code info) := ⟨_, rfl⟩

theorem State.finish_answers (s : State) (st : Status) : Answers (s.finish st) := ⟨_, rfl⟩

theorem State.finish1_answers (s : State) (st : Status) (v0 : Word64) : Answers (s.finish1 st v0) := ⟨_, rfl⟩

theorem State.finish2_answers (s : State) (st : Status) (v0 v1 : Word64) : Answers (s.finish2 st v0 v1) := ⟨_, rfl⟩

theorem answers_ite {c : Prop} [Decidable c] {a b : Result} (ha : Answers a) (hb : Answers b) :
    Answers (if c then a else b) := by
  split
  · exact ha
  · exact hb

theorem State.onAccess_answers {α : Type} {a : Access α} {k : α → State → Result} (hk : ∀ v u, Answers (k v u)) :
    Answers (s.onAccess a k) := by
  cases a with
  | hang => exact answers_next s
  | refuse code info => exact s.raise_answers code info
  | done v u => exact hk v u

theorem State.start_answers (s : State) (i : Instr) (check : Option (FaultCode × FaultInfo)) :
    Answers (s.start i check) := by
  cases check with
  | none => exact answers_next _
  | some e => exact s.raise_answers e.1 e.2

theorem State.acquireAndFinish_answers (s : State) (tables : PerChan Table) (c : Chan) (st : Status) :
    Answers (s.acquireAndFinish tables c st) := by
  unfold State.acquireAndFinish
  split
  · exact State.finish2_answers ..
  · exact State.finish2_answers ..

theorem State.markReleased_answers {tables : PerChan Table} {c : Chan} {n : Nat} {k : State → Result}
    (hk : ∀ u, Answers (k u)) : Answers (s.markReleased tables c n k) := by
  unfold State.markReleased
  split
  · exact State.raise_answers ..
  · exact hk _

theorem State.markTail_answers {tables : PerChan Table} {c : Chan} {n : Nat} {k : Table → State → Result}
    (hk : ∀ t u, Answers (k t u)) : Answers (s.markTail tables c n k) := by
  unfold State.markTail
  split
  · exact State.raise_answers ..
  · exact hk _ _

theorem State.drainStep_answers {c : Chan} {tables : PerChan Table} {d : DrainPoint} {done : Nat → State → Result}
    (hdone : ∀ n u, Answers (done n u)) : Answers (s.drainStep i c tables d done) := by
  cases d with
  | ready n =>
    refine State.onAccess_answers fun x u => answers_ite ?_ (hdone n u)
    cases c.dir <;> exact answers_next _
  | status n => exact State.onAccess_answers fun _ _ => answers_next _
  | mark n amount => exact State.markTail_answers fun _ _ => answers_next _
  | ack n => exact State.onAccess_answers fun _ _ => answers_next _

theorem State.acquireOrWait_answers (s : State) (i : Instr) (c : Chan) (us : Word64) (tables : PerChan Table) :
    Answers (s.acquireOrWait i c us tables) :=
  answers_ite (s.acquireAndFinish_answers tables c .timeout)
    (answers_ite (s.finish2_answers ..) (answers_ite (State.finish2_answers ..) (answers_next _)))

/-! ### The steps of OPEN -/

theorem State.openDone_answers (s : State) (loaded : Bool) : Answers (s.openDone loaded) := State.finish2_answers ..

theorem State.failOpen_answers (s : State) (st : Status) (v0 v1 : Word64) : Answers (s.failOpen st v0 v1) :=
  State.finish2_answers ..

theorem State.selfTestMemReadAt_answers (s : State) (i : Instr) (loaded : Bool) (k : Nat) :
    Answers (s.selfTestMemReadAt i loaded k) :=
  answers_ite (answers_next _) (s.openDone_answers loaded)

theorem State.selfTestMemWriteAt_answers (s : State) (i : Instr) (loaded : Bool) (k : Nat) :
    Answers (s.selfTestMemWriteAt i loaded k) :=
  answers_ite (answers_next _) (answers_ite (answers_next _) (s.openDone_answers loaded))

theorem State.afterRecheck_answers (s : State) (i : Instr) (a v : Half) : Answers (s.afterRecheck i a v) :=
  answers_ite (s.failOpen_answers ..) (answers_ite (s.failOpen_answers ..) (answers_next _))

theorem State.openStep_answers (s : State) (hash : Word64) (seed : Half) (p : OpenPoint) :
    Answers (s.openStep hash seed p) := by
  cases p with
  | map m => exact answers_ite (answers_next _) (State.failOpen_answers ..)
  | load => exact answers_next s
  | recheckVersion a => exact State.onAccess_answers fun v u => u.afterRecheck_answers _ a v
  | regRead loaded saved k =>
    exact State.onAccess_answers fun _ u => answers_ite (u.failOpen_answers ..) (answers_next _)
  | mapTest loaded => exact answers_ite (State.selfTestMemWriteAt_answers ..) (State.failOpen_answers ..)
  | memWrite loaded k => exact State.onAccess_answers fun _ u => u.selfTestMemWriteAt_answers ..
  | memRead loaded k =>
    exact State.onAccess_answers fun _ u => answers_ite (u.failOpen_answers ..) (u.selfTestMemReadAt_answers ..)
  | _ => exact State.onAccess_answers fun _ _ => answers_next _

/-! ### Every command at a point of its own -/

/-- What the running thread has in progress, if anything, is command `i` at a program point of its own. -/
def State.MayStep (s : State) (i : Instr) : Prop := ∀ r, s.current = some r → r.instr = i ∧ r.ownPoint = true

theorem State.commandStep_answers {body : PerChan Table → Point → Result} (h : s.MayStep i)
    (hb : ∀ tables p, Running.ownPoint ⟨i, p⟩ = true → p ≠ .cut → Answers (body tables p)) :
    Answers (s.commandStep i body) := by
  unfold State.commandStep
  split
  · exact s.start_answers i _
  · next r hr =>
    obtain ⟨rfl, hp⟩ := h r hr
    rw [if_pos rfl]
    split
    · exact s.raise_answers ..
    · next hcut =>
      split
      · exact hb _ r.point hp hcut
      all_goals exact s.raise_answers ..

theorem State.lifecycleStep_answers {check : Option (FaultCode × FaultInfo)} {body : Point → Result} (h : s.MayStep i)
    (hb : ∀ p, Running.ownPoint ⟨i, p⟩ = true → Answers (body p)) : Answers (s.lifecycleStep i check body) := by
  unfold State.lifecycleStep
  split
  · exact s.start_answers i _
  · next r hr =>
    obtain ⟨rfl, hp⟩ := h r hr
    rw [if_pos rfl]
    exact hb r.point hp

/-- Whether a command has its first program point only: `start_of_onePoint` ties it to `Running.ownPoint`. -/
def Instr.onePoint : Instr → Bool
  | .openDev _ _ => false
  | .chAcquire _ _ => false
  | .chTryAcquire _ => false
  | .chRelease _ _ _ => false
  | .pollDrain _ => false
  | .clkGet => false
  | .clkSet _ => false
  | _ => true

theorem Running.start_of_onePoint (hi : Instr.onePoint i = true) {p : Point} (hp : Running.ownPoint ⟨i, p⟩ = true)
    (hcut : p ≠ .cut) : p = .start := by
  cases i with
  | openDev | chAcquire | chTryAcquire | chRelease | pollDrain | clkGet | clkSet => cases hi
  | _ =>
    cases p with
    | start => rfl
    | cut => exact absurd rfl hcut
    | _ => cases hp

theorem State.simpleStep_answers {body : PerChan Table → Result} (h : s.MayStep i) (hi : Instr.onePoint i = true)
    (hb : ∀ tables, Answers (body tables)) : Answers (s.simpleStep i body) := by
  refine State.commandStep_answers h fun tables p hp hcut => ?_
  cases Running.start_of_onePoint hi hp hcut
  exact hb tables

/-- POLL_DRAIN and CH_TRY_ACQUIRE. -/
theorem State.drainCommand_answers {c : Chan} {done : PerChan Table → Nat → State → Result} (h : s.MayStep i)
    (hi : i = .pollDrain c ∨ i = .chTryAcquire c) (hdone : ∀ tables n u, Answers (done tables n u)) :
    Answers (s.drainCommand i c done) := by
  refine State.commandStep_answers h fun tables p hp hcut => ?_
  cases p with
  | start => exact State.drainStep_answers (hdone tables)
  | drain d => exact State.drainStep_answers (hdone tables)
  | cut => exact absurd rfl hcut
  | _ => rcases hi with rfl | rfl <;> cases hp

theorem execChAcquire_answers {c : Chan} {us : Word64} (h : s.MayStep (.chAcquire c us)) :
    Answers (execChAcquire c us s) := by
  unfold execChAcquire
  refine State.commandStep_answers h fun tables p hp hcut => ?_
  cases p with
  | start => exact State.drainStep_answers fun _ u => u.acquireOrWait_answers ..
  | drain d => exact State.drainStep_answers fun _ u => u.acquireOrWait_answers ..
  | wait => exact answers_next _
  | cut => exact absurd rfl hcut
  | _ => cases hp

theorem execChRelease_answers {c : Chan} {n : Half} {length : Word64} (h : s.MayStep (.chRelease c n length)) :
    Answers (execChRelease c n length s) := by
  unfold execChRelease
  refine State.commandStep_answers h fun tables p hp hcut => ?_
  cases p with
  | start =>
    cases s.releaseFault tables c n length with
    | none => exact answers_next _
    | some e => exact s.raise_answers ..
  | relStart =>
    refine State.onAccess_answers fun _ u => ?_
    cases c.dir with
    | mm2s => exact answers_next _
    | s2mm => exact u.finish_answers .ok
  | relEnd => exact State.onAccess_answers fun _ u => u.finish_answers .ok
  | cut => exact absurd rfl hcut
  | _ => cases hp

theorem execClkGet_answers (h : s.MayStep .clkGet) : Answers (execClkGet s) := by
  refine State.commandStep_answers h fun tables p hp hcut => ?_
  cases p with
  | start => exact State.onAccess_answers fun _ _ => answers_next _
  | clkGet q =>
    cases q with
    | field3 f0 f1 f2 => exact State.onAccess_answers fun _ u => u.finish2_answers ..
    | _ => exact State.onAccess_answers fun _ _ => answers_next _
  | cut => exact absurd rfl hcut
  | _ => cases hp

theorem execClkSet_answers {ns : Word64} (h : s.MayStep (.clkSet ns)) : Answers (execClkSet ns s) := by
  refine State.commandStep_answers h fun tables p hp hcut => ?_
  cases p with
  | start => exact State.onAccess_answers fun _ _ => answers_next _
  | clkSet q =>
    cases q with
    | latchClear => exact State.onAccess_answers fun _ u => u.finish1_answers ..
    | _ => exact State.onAccess_answers fun _ _ => answers_next _
  | cut => exact absurd rfl hcut
  | _ => cases hp

theorem execOpenDev_answers {hash : Word64} {seed : Half} (h : s.MayStep (.openDev hash seed)) :
    Answers (execOpenDev hash seed s) := by
  unfold execOpenDev
  refine State.lifecycleStep_answers h fun p hp => ?_
  cases p with
  | start => exact answers_next _
  | opening q => exact s.openStep_answers hash seed q
  | _ => cases hp

theorem execCloseDev_answers (h : s.MayStep .closeDev) : Answers (execCloseDev s) := by
  refine State.lifecycleStep_answers h fun p hp => ?_
  cases p with
  | start => exact State.finish_answers ..
  | _ => cases hp

/-- From a program point of its own no command is refused. -/
theorem exec_answers (h : s.MayStep i) : Answers (exec i s) := by
  cases i with
  | regRd off => exact State.simpleStep_answers h rfl fun _ => State.onAccess_answers fun _ u => u.finish1_answers ..
  | regWr off value => exact State.simpleStep_answers h rfl fun _ => State.onAccess_answers fun _ u => u.finish_answers .ok
  | memRd8 w a => exact State.simpleStep_answers h rfl fun _ => State.onAccess_answers fun _ u => u.finish1_answers ..
  | memWr8 w a b => exact State.simpleStep_answers h rfl fun _ => State.onAccess_answers fun _ u => u.finish_answers .ok
  | openDev hash seed => exact execOpenDev_answers h
  | closeDev => exact execCloseDev_answers h
  | tblNumAvail c => exact State.simpleStep_answers h rfl fun _ => s.finish1_answers ..
  | tblAcqHead c => exact State.simpleStep_answers h rfl fun tables => s.acquireAndFinish_answers tables c _
  | tblMarkRel c n => exact State.simpleStep_answers h rfl fun _ => State.markReleased_answers fun u => u.finish_answers .ok
  | tblMarkTail c n => exact State.simpleStep_answers h rfl fun _ => State.markTail_answers fun _ u => u.finish1_answers ..
  | tblOffset c n =>
    exact State.simpleStep_answers h rfl fun _ => answers_ite (s.raise_answers ..) (s.finish1_answers ..)
  | tblBuff c n =>
    exact State.simpleStep_answers h rfl fun _ => answers_ite (s.raise_answers ..) (s.finish2_answers ..)
  | tblBpf c => exact State.simpleStep_answers h rfl fun _ => s.finish1_answers ..
  | chAcquire c us => exact execChAcquire_answers h
  | chTryAcquire c => exact State.drainCommand_answers h (.inr rfl) fun tables _ u => u.acquireAndFinish_answers tables c _
  | chRelease c n length => exact execChRelease_answers h
  | chBuffer c n =>
    exact State.simpleStep_answers h rfl fun _ => answers_ite (s.raise_answers ..) (s.finish2_answers ..)
  | pollDrain c => exact State.drainCommand_answers h (.inl rfl) fun _ _ u => u.finish2_answers ..
  | clkGet => exact execClkGet_answers h
  | clkSet ns => exact execClkSet_answers h

/-! ### Every agent's step -/

theorem State.dmaStep_answers (s : State) (c : Chan) : Answers (s.dmaStep c) := by
  unfold State.dmaStep
  split
  · exact answers_next s
  · split
    · exact answers_next s
    · exact answers_ite (s.raise_answers ..) (answers_next _)
    · exact answers_ite (s.raise_answers ..) (answers_next _)

theorem State.loaderStep_answers (s : State) : Answers s.loaderStep := by
  unfold State.loaderStep
  split <;> exact answers_next _

/-- What a thread fetches is the command that it has in progress, where it has one (10 R20). -/
theorem State.fetch_run {t : Nat} {r : Running} (h : s.fetch t = .run i) (hr : (s.thread t).running = some r) :
    r.instr = i := by
  rw [State.fetch] at h
  rw [State.thread, List.getD_eq_getElem?_getD] at hr
  cases hth : s.threads[t]? with
  | none => rw [hth] at h; cases h
  | some th =>
    rw [hth] at h hr
    simp only [Option.getD_some] at hr
    simp only [Thread.fetch, hr, Fetched.run.injEq] at h
    exact h

theorem hostStep_answers {t : Nat} (ht : s.turn = .host t) (hs : s.PointsInv) : Answers (hostStep t s) := by
  unfold hostStep
  split
  · exact answers_next s
  · exact s.raise_answers ..
  · next i hi =>
    refine exec_answers fun r hr => ?_
    rw [State.current, State.tid_of_host ht] at hr
    exact ⟨State.fetch_run hi hr, hs t r hr⟩

theorem agentStep_answers (hs : s.PointsInv) : Answers (agentStep s) := by
  unfold agentStep
  split
  · next t ht => exact hostStep_answers ht hs
  · exact s.dmaStep_answers _
  · exact answers_next _
  · exact s.loaderStep_answers

theorem step_answers (hs : s.PointsInv) (hf : s.faults = []) (hc : s.configOk = true) : ∃ s', step s = .next s' := by
  obtain ⟨u, hu⟩ := agentStep_answers hs
  exact ⟨u.schedule, by simp [step, hf, hc, hu]⟩

theorem step_of_not_configOk (hf : s.faults = []) (hc : ¬ s.configOk = true) : step s = .refused .illFormedConfig := by
  simp [step, hf, hc]

end Sys2Proof.Machine
end

section
/-! PROOFS. The checks of a configuration in the words of 00 R7 and R8, and the statement about points and accepted
configurations. -/

namespace Sys2Proof

variable {cfg : Config}

theorem Reg.nodup_list : Reg.list.Nodup := by decide

theorem Chan.nodup_list : Chan.list.Nodup := by decide

theorem Config.readyBitsOk_iff :
    cfg.readyBitsOk = true ↔ ∀ c d, cfg.readyBit.get c = cfg.readyBit.get d → c = d := by
  rw [Config.readyBitsOk, decide_eq_true_eq, List.nodup_map_iff_inj_on Chan.nodup_list]
  exact ⟨fun h c d => h c c.mem_list d d.mem_list, fun h c _ d _ => h c d⟩

theorem Config.regMapOk_iff :
    cfg.regMapOk = true ↔ ∀ r, cfg.off r % 2 = 0 ∧ cfg.off r < cfg.regWinBytes ∧ ∀ q, cfg.off r = cfg.off q → r = q := by
  rw [Config.regMapOk, Bool.and_eq_true, List.all_eq_true, decide_eq_true_eq, List.nodup_map_iff_inj_on Reg.nodup_list]
  simp only [decide_eq_true_eq]
  constructor
  · rintro ⟨hrange, hinj⟩ r
    obtain ⟨heven, hlt⟩ := hrange r r.mem_list
    exact ⟨heven, hlt, fun q => hinj r r.mem_list q q.mem_list⟩
  · intro h
    exact ⟨fun r _ => ⟨(h r).1, (h r).2.1⟩, fun r _ q _ => (h r).2.2 q⟩

/-- Two regions that are not empty do not meet exactly when one ends before the other begins. -/
theorem Config.disjoint_iff {c d : Chan} (hc : 0 < cfg.regionBytes c) (hd : 0 < cfg.regionBytes d) :
    cfg.disjoint c d = true ↔ ∀ a, ¬ ((cfg.base.get c ≤ a ∧ a < cfg.regionEnd c) ∧
      (cfg.base.get d ≤ a ∧ a < cfg.regionEnd d)) := by
  rw [Config.disjoint, decide_eq_true_eq]
  unfold Config.regionEnd
  constructor
  · rintro h a ⟨⟨_, _⟩, _, _⟩
    omega
  · intro h
    have := h (max (cfg.base.get c) (cfg.base.get d))
    omega

/-- The two pairs of channels that share a window are all there are (10 R16). -/
theorem Chan.forall_pairs_iff {p : Chan → Chan → Prop} (hsymm : ∀ c d, p c d → p d c) :
    (∀ c d : Chan, c ≠ d → c.win = d.win → p c d) ↔ p .framerMm2s .framerS2mm ∧ p .deframerMm2s .deframerS2mm := by
  constructor
  · intro h
    exact ⟨h _ _ (by decide) rfl, h _ _ (by decide) rfl⟩
  · rintro ⟨hf, hd⟩ c d hne hw
    match c, d, hne, hw with
    | .framerMm2s, .framerS2mm, _, _ => exact hf
    | .framerS2mm, .framerMm2s, _, _ => exact hsymm _ _ hf
    | .deframerMm2s, .deframerS2mm, _, _ => exact hd
    | .deframerS2mm, .deframerMm2s, _, _ => exact hsymm _ _ hd

/-- R8 (b) for every two channels. -/
theorem Config.disjoint_all_iff (hpos : ∀ c, 0 < cfg.regionBytes c) :
    (∀ c d : Chan, c ≠ d → c.win = d.win → ∀ a, ¬ ((cfg.base.get c ≤ a ∧ a < cfg.regionEnd c) ∧
      (cfg.base.get d ≤ a ∧ a < cfg.regionEnd d))) ↔
    cfg.disjoint .framerMm2s .framerS2mm = true ∧ cfg.disjoint .deframerMm2s .deframerS2mm = true := by
  rw [Config.disjoint_iff (hpos _) (hpos _), Config.disjoint_iff (hpos _) (hpos _)]
  exact Chan.forall_pairs_iff fun c d h a hcd => h a hcd.symm

theorem Config.wf_iff : cfg.wf = true ↔
    (∀ c, cfg.chanOk c = true) ∧ cfg.disjoint .framerMm2s .framerS2mm = true ∧
      cfg.disjoint .deframerMm2s .deframerS2mm = true ∧ cfg.regMapOk = true ∧ cfg.readyBitsOk = true ∧
      cfg.scalarsOk = true := by
  simp only [Config.wf, Bool.and_eq_true, List.all_eq_true, Chan.mem_list, true_implies, and_assoc]

end Sys2Proof

namespace Sys2Proof.Machine

open Sys2Proof

/-- Settles O31: the invariant by `step_pointsInv`, the progress by `step_answers`, and the configurations clause by
clause. -/
theorem pointsAreOwnAndStepsAnswer : Obligations.PointsAreOwnAndStepsAnswer := by
  unfold Obligations.PointsAreOwnAndStepsAnswer
  refine ⟨fun s s' hs h => step_pointsInv hs h, fun s hs hf hc => step_answers hs hf hc, ?_⟩
  intro s g wellFormed ranges
  have hok : s.configOk = true ↔ wellFormed ∧ ranges ∧ s.threads.length = g.threads := by
    rw [State.configOk, Bool.and_eq_true, decide_eq_true_eq, Config.wf_iff, Config.regMapOk_iff, Config.readyBitsOk_iff]
    simp only [Config.chanOk, Config.scalarsOk, decide_eq_true_eq]
    have hregions (h : ∀ c, 1 ≤ g.capacity.get c ∧ 1 ≤ g.frameBytes.get c) :=
      Config.disjoint_all_iff (cfg := g) fun c => Nat.mul_pos (h c).1 (h c).2
    constructor
    · rintro ⟨⟨hchan, hframer, hdeframer, hreg, hready, hin, hout, hne, hclock, hthreads, hwin⟩, hlen⟩
      choose hn hn' hf hf' hfits hend howner hdepth hbit using hchan
      exact ⟨⟨hfits, (hregions fun c => ⟨hn c, hf c⟩).mpr ⟨hframer, hdeframer⟩, hend, hreg, hready, hne, howner, hdepth⟩,
        ⟨fun c => ⟨hn c, hn' c, hf c, hf' c, hbit c⟩, hin, hout, hclock, hthreads, hwin⟩, hlen⟩
    · rintro ⟨⟨hfits, hdisjoint, hend, hreg, hready, hne, howner, hdepth⟩,
        ⟨hchan, hin, hout, hclock, hthreads, hwin⟩, hlen⟩
      choose hn hn' hf hf' hbit using hchan
      obtain ⟨hframer, hdeframer⟩ := (hregions fun c => ⟨hn c, hf c⟩).mp hdisjoint
      exact ⟨⟨fun c => ⟨hn c, hn' c, hf c, hf' c, hfits c, hend c, howner c, hdepth c, hbit c⟩, hframer, hdeframer, hreg,
        hready, hin, hout, hne, hclock, hthreads, hwin⟩, hlen⟩
  exact ⟨hok, fun hn hf => step_of_not_configOk hf (mt hok.mp hn)⟩

end Sys2Proof.Machine
end

section
/-! PROOFS. What the step of an agent leaves of the memory windows and the fabric queues (spec 10 R25, R27; 43 R104), and
the two invariants about them. -/

namespace Sys2Proof.Machine

open Sys2Proof

variable {s s' u v : State} {i : Instr}

/-! ### The two invariants by the fields that they read -/

theorem State.MemoryInv.of_mem (h : s.MemoryInv) (hu : u.mem = s.mem) : u.MemoryInv := by
  rw [State.MemoryInv, hu]; exact h

/-- The channel that a queue operation names need be looked at only: what the others hold is unchanged. -/
theorem State.QueuesInv.of_chan (h : s.QueuesInv) (c : Chan) (hcfg : u.cfg = s.cfg)
    (hother : ∀ d, d ≠ c → u.descQ.get d = s.descQ.get d ∧ u.mm2sStart.get d = s.mm2sStart.get d ∧
      u.streamOut.get d = s.streamOut.get d ∧ u.streamIn.get d = s.streamIn.get d)
    (hq : (u.descQ.get c).length ≤ s.cfg.queueDepth.get c ∧ ∀ d ∈ u.descQ.get c, d.hasDir c.dir = true)
    (hs2mm : c.dir = .s2mm → u.mm2sStart.get c = none ∧ u.streamOut.get c = [])
    (hmm2s : c.dir = .mm2s → u.streamIn.get c = []) : u.QueuesInv := by
  intro d
  rw [hcfg]
  by_cases hd : d = c
  · subst hd
    exact ⟨hq.1, hq.2, hs2mm, hmm2s⟩
  · obtain ⟨h1, h2, h3, h4⟩ := hother d hd
    rw [h1, h2, h3, h4]
    exact h d

/-! ### The writes and the engines -/

/-- A queue that is not full takes a descriptor of its channel's direction. -/
theorem State.QueuesInv.append (h : s.QueuesInv) {c : Chan} {d : Desc}
    (hfull : (s.descQ.get c).length ≠ s.cfg.queueDepth.get c) (hd : d.hasDir c.dir = true) :
    (s.descQ.get c ++ [d]).length ≤ s.cfg.queueDepth.get c ∧ ∀ e ∈ s.descQ.get c ++ [d], e.hasDir c.dir = true := by
  obtain ⟨hlen, hdir, -⟩ := h c
  refine ⟨by rw [List.length_append, List.length_singleton]; omega, fun e he => ?_⟩
  rcases List.mem_append.mp he with he | he
  · exact hdir e he
  · rwa [List.mem_singleton.mp he]

/-- A write of CTRLc keeps the queues in their form: the full queue is refused (43 R104). -/
theorem State.QueuesInv.writeCtrl (h : s.QueuesInv) {c : Chan} {off : Nat} {x : Half}
    (hw : s.writeCtrl c off x = .done () u) : u.QueuesInv := by
  obtain ⟨hlen, hdir, hs2mm, hmm2s⟩ := h c
  have hne {α : Type} (p : PerChan α) (a : α) (d : Chan) (hd : d ≠ c) : (p.set c a).get d = p.get d := p.get_set_ne hd a
  obtain ⟨-, ⟨hc, -, rfl⟩ | ⟨first, hc, -, hfull, rfl⟩ | ⟨hc, hfull, rfl⟩⟩ := State.writeCtrl_cases hw
  · exact h.of_chan c rfl (fun d hd => ⟨rfl, hne _ _ d hd, rfl, rfl⟩) ⟨hlen, hdir⟩ (fun e => by cases hc.symm.trans e)
      hmm2s
  · refine h.of_chan c rfl (fun d hd => ⟨hne _ _ d hd, hne _ _ d hd, rfl, rfl⟩) ?_ (fun e => by cases hc.symm.trans e)
      hmm2s
    simpa only [PerChan.get_set_same] using h.append hfull (d := .mm2s first x) (by rw [hc]; rfl)
  · refine h.of_chan c rfl (fun d hd => ⟨hne _ _ d hd, rfl, rfl, rfl⟩) ?_ hs2mm hmm2s
    simpa only [PerChan.get_set_same] using h.append hfull (d := .s2mm x) (by rw [hc]; rfl)

/-- What empties the queues and leaves the streams keeps the form (40 R70, 41 R80). -/
theorem State.QueuesInv.of_cleared (h : s.QueuesInv) (hcfg : u.cfg = s.cfg) (hd : u.descQ = .all [])
    (hm : u.mm2sStart = .all none) (ho : u.streamOut = s.streamOut) (hi : u.streamIn = s.streamIn) : u.QueuesInv := by
  intro c
  obtain ⟨-, -, hs2mm, hmm2s⟩ := h c
  rw [hcfg, hd, hm, ho, hi, PerChan.get_all, PerChan.get_all]
  exact ⟨Nat.zero_le _, fun d hd => absurd hd List.not_mem_nil, fun e => ⟨rfl, (hs2mm e).2⟩, hmm2s⟩

theorem State.QueuesInv.clearFabric (h : s.QueuesInv) : s.clearFabric.QueuesInv :=
  h.of_cleared s.draw_cfg rfl rfl s.draw_streamOut s.draw_streamIn

theorem State.QueuesInv.writeRegister (h : s.QueuesInv) {r : Reg} {off : Nat} {x : Half}
    (hw : s.writeRegister r off x = .done () u) : u.QueuesInv := by
  cases r with
  | sentinel | version | ready => cases hw
  | reset =>
    rcases State.writeReset_cases hw with ⟨-, rfl⟩ | ⟨-, rfl⟩
    · exact h.clearFabric
    · exact h
  | loopback | time k => cases hw; exact h
  | timeCtrl => rw [State.writeTimeCtrl_eq hw]; exact h
  | ctrl c => exact h.writeCtrl hw
  | status c =>
    obtain ⟨-, -, rfl⟩ := State.writeStatus_cases hw
    exact h

theorem Desc.hasDir_mm2s {first last : Half} {d : Dir} (h : Desc.hasDir (.mm2s first last) d = true) : d = .mm2s := by
  cases d with
  | mm2s => rfl
  | s2mm => cases h

theorem Desc.hasDir_s2mm {first : Half} {d : Dir} (h : Desc.hasDir (.s2mm first) d = true) : d = .s2mm := by
  cases d with
  | mm2s => cases h
  | s2mm => rfl

/-- A DMA engine takes the oldest descriptor, whose form says which stream it appends to (43 R105 to R107). -/
theorem State.QueuesInv.dmaStep (h : s.QueuesInv) {c : Chan} (hd : s.dmaStep c = .next s') : s'.QueuesInv := by
  obtain ⟨hlen, hdir, hs2mm, hmm2s⟩ := h c
  have hne {α : Type} (p : PerChan α) (a : α) (d : Chan) (hd : d ≠ c) : (p.set c a).get d = p.get d := p.get_set_ne hd a
  rcases State.dmaStep_cases hd with rfl | ⟨_, _, rfl⟩ | ⟨-, first, last, rest, data, count, u, hq, hu, rfl⟩ |
    ⟨-, first, rest, data, count, u, hq, hu, rfl⟩
  · exact h
  · exact h
  all_goals
    rw [hu]
    rw [hq] at hlen hdir
    have hhead := hdir _ (List.mem_cons_self ..)
    have hrest : rest.length ≤ s.cfg.queueDepth.get c ∧ ∀ d ∈ rest, d.hasDir c.dir = true :=
      ⟨Nat.le_of_succ_le hlen, fun d hd => hdir d (List.mem_cons_of_mem _ hd)⟩
  · have hc : c.dir = .mm2s := Desc.hasDir_mm2s hhead
    refine h.of_chan c rfl (fun d hd => ⟨hne _ _ d hd, rfl, hne _ _ d hd, rfl⟩) ?_ (fun e => by cases hc.symm.trans e)
      hmm2s
    simpa only [PerChan.get_set_same] using hrest
  · have hc : c.dir = .s2mm := Desc.hasDir_s2mm hhead
    refine h.of_chan c rfl (fun d hd => ⟨hne _ _ d hd, rfl, rfl, hne _ _ d hd⟩) ?_ hs2mm (fun e => by cases hc.symm.trans e)
    simpa only [PerChan.get_set_same] using hrest

theorem State.MemoryInv.storeByte (h : s.MemoryInv) (w : Window) (a : Nat) (x : Byte) : (s.storeByte w a x).MemoryInv :=
  Windows.wf_set h w (Memory.wf_write (Windows.wf_get h w) a x)

theorem State.MemoryInv.clearWindow (h : s.MemoryInv) (w : Window) : (s.clearWindow w).MemoryInv :=
  Windows.wf_set h w rfl

theorem State.MemoryInv.dmaStep (h : s.MemoryInv) {c : Chan} (hd : s.dmaStep c = .next s') : s'.MemoryInv := by
  rcases State.dmaStep_cases hd with rfl | ⟨_, _, rfl⟩ | ⟨-, _, _, _, _, _, u, -, hu, rfl⟩ |
    ⟨-, first, _, data, _, u, -, -, rfl⟩
  · exact h
  · exact h
  · rw [hu]; exact h
  · exact Windows.wf_set h c.win (Memory.wf_writeBytes (Windows.wf_get h c.win) first.toNat data)

/-! ### What a step leaves before it moves threads on -/

/-- `u` has the configuration of `s`, and the memory and the queues in their form where `s` has them so. -/
structure State.KeepsForm (s u : State) : Prop where
  cfg : u.cfg = s.cfg
  memory : s.MemoryInv → u.MemoryInv
  queues : s.QueuesInv → u.QueuesInv

theorem State.KeepsForm.refl (s : State) : s.KeepsForm s := ⟨rfl, id, id⟩

theorem State.KeepsForm.trans (h : s.KeepsForm u) (k : u.KeepsForm v) : s.KeepsForm v :=
  ⟨k.cfg.trans h.cfg, k.memory ∘ h.memory, k.queues ∘ h.queues⟩

theorem State.setThreads_keepsForm (s : State) (l : List Thread) : s.KeepsForm { s with threads := l } := ⟨rfl, id, id⟩

theorem State.schedule_keepsForm (s : State) : s.KeepsForm s.schedule := by
  rw [State.schedule_eq]; exact ⟨rfl, id, id⟩

/-- `State.KeepsForm`, with the host threads, the turn and the schedule of `s`. -/
structure State.Keeps (s u : State) : Prop where
  hosts : s.SameHosts u
  form : s.KeepsForm u

theorem State.Keeps.refl (s : State) : s.Keeps s := ⟨.refl s, .refl s⟩

theorem State.Keeps.trans (h : s.Keeps u) (k : u.Keeps v) : s.Keeps v := ⟨h.hosts.trans k.hosts, h.form.trans k.form⟩

theorem State.raised_keeps (s : State) (code : FaultCode) (info : FaultInfo) : s.Keeps (s.raised code info) :=
  ⟨⟨rfl, rfl, rfl⟩, rfl, id, id⟩

theorem State.tick_keeps (s : State) : s.Keeps s.tick := ⟨⟨rfl, rfl, rfl⟩, rfl, id, id⟩

theorem State.DrawsOnly.keeps (h : s.DrawsOnly u) : s.Keeps u := by
  rw [h]; exact ⟨⟨rfl, rfl, rfl⟩, rfl, id, id⟩

theorem State.Reads.keeps (h : s.Reads u) : s.Keeps u := by
  rw [h.1]; exact ⟨⟨rfl, rfl, rfl⟩, rfl, id, id⟩

theorem State.writeRegister_keeps {r : Reg} {off : Nat} {x : Half} (h : s.writeRegister r off x = .done () u) :
    s.Keeps u := by
  obtain ⟨hcfg, -, -, -, -, -, -, -, -, -, -, -, hmem⟩ := State.writeRegister_sameBlock h
  exact ⟨State.writeRegister_sameHosts h, hcfg, fun hs => hs.of_mem hmem, fun hs => hs.writeRegister h⟩

theorem State.writeCtrl_keeps {c : Chan} {off : Nat} {x : Half} (h : s.writeCtrl c off x = .done () u) : s.Keeps u :=
  State.writeRegister_keeps (r := .ctrl c) h

theorem State.setTable_keeps (s : State) (tables : PerChan Table) (c : Chan) (t : Table) :
    s.Keeps (s.setTable tables c t) := ⟨⟨rfl, rfl, rfl⟩, rfl, id, id⟩

theorem State.storeByte_keeps (s : State) (w : Window) (a : Nat) (x : Byte) : s.Keeps (s.storeByte w a x) :=
  ⟨⟨rfl, rfl, rfl⟩, rfl, fun h => h.storeByte w a x, id⟩

/-- `dev`, `mapped` and `busEnergized` are not of the memory or the queues. -/
theorem State.setLifecycle_keeps (s : State) (d : Dev) (m : Mapped) (b : Bool) :
    s.Keeps { s with dev := d, mapped := m, busEnergized := b } := ⟨⟨rfl, rfl, rfl⟩, rfl, id, id⟩

theorem State.clearWindow_keeps (s : State) (w : Window) : s.Keeps (s.clearWindow w) :=
  ⟨⟨rfl, rfl, rfl⟩, rfl, fun h => h.clearWindow w, id⟩

theorem State.mapDone_keeps (s : State) (m : MapStep) : s.Keeps (s.mapDone m) := by
  cases m with
  | node => exact .refl s
  | reg => exact s.setLifecycle_keeps _ _ _
  | framer => exact (s.setLifecycle_keeps _ _ _).trans (State.clearWindow_keeps _ _)
  | deframer => exact (s.setLifecycle_keeps _ _ _).trans (State.clearWindow_keeps _ _)

theorem State.testMapped_keeps (s : State) : s.Keeps s.testMapped :=
  (s.setLifecycle_keeps _ _ _).trans (State.clearWindow_keeps _ _)

theorem State.load_keeps (s : State) : s.Keeps s.load :=
  ⟨s.load_sameHosts, s.draw_cfg, fun h => h.of_mem s.draw_mem, fun h => h.clearFabric⟩

theorem State.dmaStep_cfg {c : Chan} (h : s.dmaStep c = .next s') : s'.cfg = s.cfg := by
  rcases State.dmaStep_cases h with rfl | ⟨_, _, rfl⟩ | ⟨-, _, _, _, _, _, u, -, hu, rfl⟩ | ⟨-, _, _, _, _, u, -, hu, rfl⟩
  · rfl
  · rfl
  all_goals exact hu.frame.1

theorem State.dmaStep_keeps {c : Chan} (h : s.dmaStep c = .next s') : s.Keeps s' :=
  ⟨State.dmaStep_sameHosts h, State.dmaStep_cfg h, fun hs => hs.dmaStep h, fun hs => hs.dmaStep h⟩

/-! ### Every step -/

/-- What one step of command `i` comes to for the memory, the queues and the host threads: it leaves `u`, and then moves
its own thread on, completes its command, or leaves it in place. Only CLOSE touches the other threads (60 R122). -/
inductive State.Effect (s : State) (i : Instr) : State → Prop
  | stay (u : State) (hu : s.Keeps u) : s.Effect i u
  | goto (u : State) (p : Point) (hu : s.Keeps u) : s.Effect i (u.goto i p)
  | finish (u : State) (st : Status) (v0 v1 : Option Word64) (hu : s.Keeps u) : s.Effect i (u.finished st v0 v1)
  | close (u : State) (hu : s.Keeps u) (hc : s.current = some ⟨.closeDev, .start⟩) :
      s.Effect i (u.cutOff.finished .ok none none)

theorem State.Move.effect (h : s.Move i s') : s.Effect i s' := by
  cases h with
  | halt => exact .stay _ (s.raised_keeps _ _)
  | stay => exact .stay s (.refl s)
  | enter | enterOpen | enterClose | waited => exact .goto s _ (.refl s)
  | query => exact .finish s _ _ _ (.refl s)
  | regRd | drainEnd | clkGot => exact .finish _ _ _ _ ‹s.Reads _›.keeps
  | drainSeen | drainStatus | drainWait | clkRead | openRead => exact .goto _ _ ‹s.Reads _›.keeps
  | memRd8 => exact .finish _ _ _ _ ‹s.DrawsOnly _›.keeps
  | openMemRead => exact .goto _ _ ‹s.DrawsOnly _›.keeps
  | regWr | clkDone => exact .finish _ _ _ _ (State.writeRegister_keeps ‹_›)
  | clkWrite | openWrite => exact .goto _ _ (State.writeRegister_keeps ‹_›)
  | relOnly | relSecond => exact .finish _ _ _ _ (State.writeCtrl_keeps ‹_›)
  | relFirst => exact .goto _ _ (State.writeCtrl_keeps ‹_›)
  | memWr8 => exact .finish _ _ _ _ (s.storeByte_keeps _ _ _)
  | openMemWrite => exact .goto _ _ (s.storeByte_keeps _ _ _)
  | acqHead | markRel | markTail => exact .finish _ _ _ _ (s.setTable_keeps _ _ _)
  | drainMark | relMark => exact .goto _ _ (s.setTable_keeps _ _ _)
  | drainAck => exact .goto _ _ ⟨⟨rfl, rfl, rfl⟩, rfl, id, id⟩
  | drainAcquire => exact .finish _ _ _ _ (‹s.Reads _›.keeps.trans (State.setTable_keeps _ _ _ _))
  | close h => exact .close s.unwind (s.setLifecycle_keeps _ _ _) h
  | openStart => exact .goto _ _ (s.setLifecycle_keeps _ _ _)
  | openMap => exact .goto _ _ (‹s.DrawsOnly _›.keeps.trans (State.mapDone_keeps _ _))
  | openFail => exact .finish _ _ _ _ (‹s.Reads _›.keeps.trans (State.setLifecycle_keeps _ _ _ _))
  | openTest => exact .goto _ _ (‹s.DrawsOnly _›.keeps.trans (State.testMapped_keeps _))
  | openTestEnd =>
    exact .finish _ _ _ _ ((‹s.DrawsOnly _›.keeps.trans (State.testMapped_keeps _)).trans (State.setLifecycle_keeps _ _ _ _))
  | openMemWriteEnd => exact .finish _ _ _ _ ((s.storeByte_keeps _ _ _).trans (State.setLifecycle_keeps _ _ _ _))
  | openMemReadEnd => exact .finish _ _ _ _ (‹s.DrawsOnly _›.keeps.trans (State.setLifecycle_keeps _ _ _ _))

theorem State.Effect.keepsForm (h : s.Effect i s') : s.KeepsForm s' := by
  cases h with
  | stay u hu => exact hu.form
  | goto u p hu => exact hu.form.trans (u.setThreads_keepsForm _)
  | finish u st v0 v1 hu => exact hu.form.trans (u.setThreads_keepsForm _)
  | close u hu hc => exact hu.form.trans (u.setThreads_keepsForm _)

theorem agentStep_keepsForm (hwf : s.cfg.wf = true) (h : agentStep s = .next s') : s.KeepsForm s' := by
  rcases agentStep_cases hwf h with rfl | ⟨_, _, rfl⟩ | ⟨_, _, -, -, hm⟩ | ⟨c, -, hd⟩ | ⟨-, rfl⟩ | ⟨-, hl⟩
  · exact .refl _
  · exact (s.raised_keeps _ _).form
  · exact hm.effect.keepsForm
  · exact (State.dmaStep_keeps hd).form
  · exact s.tick_keeps.form
  · rcases State.loaderStep_cases hl with rfl | ⟨hash, seed, -, rfl⟩
    · exact .refl _
    · exact s.load_keeps.form.trans (s.load.setThreads_keepsForm _)

theorem step_keepsForm (h : step s = .next s') : s.KeepsForm s' := by
  obtain ⟨-, hc, u, hu, rfl⟩ := step_next h
  exact (agentStep_keepsForm (State.configOk_wf hc) hu).trans u.schedule_keepsForm

/-- Settles O28: the writes of memory are single bytes, runs of bytes and cleared windows, and each keeps the form. -/
theorem memoryKeepsItsForm : Obligations.MemoryKeepsItsForm := by
  unfold Obligations.MemoryKeepsItsForm
  exact fun s s' hs h => (step_keepsForm h).memory hs

/-- Settles O30: the queues change by writes of CTRLc, by the DMA engines and by being emptied, and each keeps the form. -/
theorem queuesKeepTheirForm : Obligations.QueuesKeepTheirForm := by
  unfold Obligations.QueuesKeepTheirForm
  exact fun s s' hs h => (step_keepsForm h).queues hs

end Sys2Proof.Machine
end

section
/-! PROOFS. What a step leaves of each host thread (spec 10 R18 to R20, 20 R56, 60 R122): the result registers move at
`finish` alone, and no agent touches another's thread but the LOADER and CLOSE. -/

namespace Sys2Proof.Machine

open Sys2Proof

variable {s s' u v : State} {i : Instr}

/-! ### A thread after an update of one thread -/

theorem State.thread_setThread (s : State) {t : Nat} (th : Thread) (h : t < s.threads.length) (k : Nat) :
    (s.setThread t th).thread k = if k = t then th else s.thread k := by
  by_cases hk : k = t
  · rw [hk, if_pos rfl, State.thread_setThread_same s th h]
  · rw [if_neg hk, State.thread_setThread_ne s th hk]

theorem State.SameHosts.thread (h : s.SameHosts u) (t : Nat) : u.thread t = s.thread t := State.thread_congr h.threads t

theorem State.SameHosts.tid (h : s.SameHosts u) : u.tid = s.tid := by rw [State.tid, h.turn]; rfl

theorem State.lt_threads_of_running {t : Nat} {r : Running} (h : (s.thread t).running = some r) :
    t < s.threads.length := by
  by_contra hn
  rw [State.thread, List.getD_eq_getElem?_getD, List.getElem?_eq_none (by omega)] at h
  cases h

/-! ### The command pointer and the result registers (10 R18, R19) -/

/-- Thread `t` has the command pointer and the result registers of `s` in `u`. -/
structure State.KeepsResults (s u : State) (t : Nat) : Prop where
  cp : (u.thread t).cp = (s.thread t).cp
  rstat : (u.thread t).rstat = (s.thread t).rstat
  rv0 : (u.thread t).rv0 = (s.thread t).rv0
  rv1 : (u.thread t).rv1 = (s.thread t).rv1

theorem State.KeepsResults.of_thread {t : Nat} (h : u.thread t = s.thread t) : s.KeepsResults u t := by
  constructor <;> rw [h]

theorem State.SameHosts.keepsResults (h : s.SameHosts u) (t : Nat) : s.KeepsResults u t := .of_thread (h.thread t)

theorem State.KeepsResults.trans {t : Nat} (h : s.KeepsResults u t) (k : u.KeepsResults v t) : s.KeepsResults v t :=
  ⟨k.cp.trans h.cp, k.rstat.trans h.rstat, k.rv0.trans h.rv0, k.rv1.trans h.rv1⟩

theorem State.putAt_keepsResults (s : State) (k : Nat) (i : Instr) (p : Point) (t : Nat) :
    s.KeepsResults (s.putAt k i p) t := by
  by_cases hlt : k < s.threads.length
  · by_cases hk : t = k
    · subst hk
      have := State.thread_setThread_same s { s.thread t with running := some ⟨i, p⟩ } hlt
      constructor <;> rw [State.putAt, this]
    · exact .of_thread (State.thread_setThread_ne s _ hk)
  · refine .of_thread (State.thread_congr ?_ t)
    rw [State.putAt, State.setThread_threads, List.set_eq_of_length_le (by omega)]

theorem State.cutOff_keepsResults (s : State) (t : Nat) : s.KeepsResults s.cutOff t := by
  constructor <;> simp

/-- Thread `t` completes the command that it has in progress between `s` and `u` (10 R19). -/
structure State.CompletesCommand (s u : State) (t : Nat) : Prop where
  running : (s.thread t).running ≠ none
  idle : (u.thread t).running = none
  cp : (u.thread t).cp = (s.thread t).cp + 1
  rstat : (u.thread t).rstat ≠ none

/-- `finish` after steps that leave the results alone: the running thread completes, and the results of the others
stay. -/
theorem State.finished_results (hk : ∀ t, s.KeepsResults u t) (htid : u.tid = s.tid) (hlt : u.tid < u.threads.length)
    (hc : s.current ≠ none) (st : Status) (v0 v1 : Option Word64) (t : Nat) :
    s.KeepsResults (u.finished st v0 v1) t ∨ (t = s.tid ∧ s.CompletesCommand (u.finished st v0 v1) t) := by
  by_cases ht : t = s.tid
  · subst ht
    have hth : (u.finished st v0 v1).thread s.tid = (u.thread s.tid).finish st v0 v1 := by
      rw [State.finished, ← htid, State.thread_setThread_same u _ hlt]
    refine .inr ⟨rfl, hc, by rw [hth]; rfl, ?_, by rw [hth]; exact Option.some_ne_none _⟩
    rw [hth, Thread.finish, (hk s.tid).cp]
  · exact .inl ((hk t).trans (.of_thread (State.thread_setThread_ne u _ (htid ▸ ht))))

/-- A thread without a command in progress does at most an entry step (60 R121). -/
theorem State.Move.of_idle (h : s.Move i s') (hc : s.current = none) :
    s' = s ∨ (∃ code info, s' = s.raised code info) ∨ s' = s.goto i .start := by
  cases h with
  | halt => exact .inr (.inl ⟨_, _, rfl⟩)
  | stay => exact .inl rfl
  | enter | enterOpen | enterClose => exact .inr (.inr rfl)
  | _ => cases hc.symm.trans ‹s.current = some _›

theorem State.Effect.results (h : s.Effect i s') (hlt : s.tid < s.threads.length) (hc : s.current ≠ none) (t : Nat) :
    s.KeepsResults s' t ∨ (t = s.tid ∧ s.CompletesCommand s' t) := by
  cases h with
  | stay u hu => exact .inl (hu.hosts.keepsResults t)
  | goto u p hu => exact .inl ((hu.hosts.keepsResults t).trans (u.putAt_keepsResults _ _ _ t))
  | finish u st v0 v1 hu =>
    refine State.finished_results hu.hosts.keepsResults hu.hosts.tid ?_ hc st v0 v1 t
    rwa [hu.hosts.tid, hu.hosts.threads]
  | close u hu _ =>
    refine State.finished_results (fun t => (hu.hosts.keepsResults t).trans (u.cutOff_keepsResults t)) hu.hosts.tid ?_ hc
      .ok none none t
    rwa [State.cutOff_threads_length, State.cutOff_tid, hu.hosts.tid, hu.hosts.threads]

theorem State.Move.results (h : s.Move i s') (hlt : s.tid < s.threads.length) (t : Nat) :
    s.KeepsResults s' t ∨ (t = s.tid ∧ s.CompletesCommand s' t) := by
  by_cases hc : s.current = none
  · rcases h.of_idle hc with rfl | ⟨code, info, rfl⟩ | rfl
    · exact .inl (.of_thread rfl)
    · exact .inl (.of_thread rfl)
    · exact .inl (s.putAt_keepsResults _ _ _ t)
  · exact h.effect.results hlt hc t

theorem agentStep_results (hwf : s.cfg.wf = true) (h : agentStep s = .next s') (t : Nat) :
    s.KeepsResults s' t ∨ (s.turn = .host t ∧ s.CompletesCommand s' t) := by
  rcases agentStep_cases hwf h with rfl | ⟨_, _, rfl⟩ | ⟨k, i, hk, hlt, hm⟩ | ⟨c, -, hd⟩ | ⟨-, rfl⟩ | ⟨-, hl⟩
  · exact .inl (.of_thread rfl)
  · exact .inl (.of_thread rfl)
  · have htid := State.tid_of_host hk
    rcases hm.results (htid ▸ hlt) t with h | ⟨rfl, h⟩
    · exact .inl h
    · exact .inr ⟨by rw [hk, htid], h⟩
  · exact .inl ((State.dmaStep_sameHosts hd).keepsResults t)
  · exact .inl (.of_thread rfl)
  · rcases State.loaderStep_cases hl with rfl | ⟨hash, seed, -, rfl⟩
    · exact .inl (.of_thread rfl)
    · exact .inl ((s.load_sameHosts.keepsResults t).trans (s.load.putAt_keepsResults _ _ _ t))

theorem observe_eq_ok_iff {α : Type} {r : Option α} {x : α} : observe r = .ok x ↔ r = some x := by
  cases r <;> simp [observe]

theorem observe_eq_error_iff {α : Type} {r : Option α} : observe r = .error .resultUnwritten ↔ r = none := by
  cases r <;> simp [observe]

/-- Settles O11: a step leaves a thread's results or is the `finish` of its own command, and `observe` reads a register as
it is held. -/
theorem pointerMovesByOneAtFinish : Obligations.PointerMovesByOneAtFinish := by
  unfold Obligations.PointerMovesByOneAtFinish
  refine ⟨fun s s' t h => ?_, fun s t => ?_⟩
  · obtain ⟨-, hc, u, hu, rfl⟩ := step_next h
    rw [State.schedule_thread]
    rcases agentStep_results (State.configOk_wf hc) hu t with ⟨hcp, hrstat, hrv0, hrv1⟩ | ⟨ht, hrun, hidle, hcp, hrstat⟩
    · exact .inl ⟨hcp, hrstat, hrv0, hrv1⟩
    · exact .inr ⟨ht, hrun, hidle, hcp, hrstat⟩
  · exact ⟨fun _ => observe_eq_ok_iff, observe_eq_error_iff, fun _ => observe_eq_ok_iff, observe_eq_error_iff,
      fun _ => observe_eq_ok_iff, observe_eq_error_iff⟩

/-! ### The threads of the other agents (10 R15, 20 R56, 60 R135) -/

/-- `u` has the host threads of `s` with their command streams. -/
structure State.KeepsStreams (s u : State) : Prop where
  length : u.threads.length = s.threads.length
  stream : ∀ t, (u.thread t).stream = (s.thread t).stream

theorem State.KeepsStreams.trans (h : s.KeepsStreams u) (k : u.KeepsStreams v) : s.KeepsStreams v :=
  ⟨k.length.trans h.length, fun t => (k.stream t).trans (h.stream t)⟩

theorem State.SameHosts.keepsStreams (h : s.SameHosts u) : s.KeepsStreams u :=
  ⟨by rw [h.threads], fun t => by rw [h.thread t]⟩

theorem State.setThread_keepsStreams (s : State) {t : Nat} {th : Thread} (h : th.stream = (s.thread t).stream) :
    s.KeepsStreams (s.setThread t th) := by
  refine ⟨List.length_set, fun k => ?_⟩
  by_cases hlt : t < s.threads.length
  · rw [s.thread_setThread th hlt]
    split
    · next hk => rw [h, hk]
    · rfl
  · rw [State.thread_congr (List.set_eq_of_length_le (by omega))]

theorem State.cutOff_keepsStreams (s : State) : s.KeepsStreams s.cutOff :=
  ⟨s.cutOff_threads_length, fun t => by rw [State.cutOff_thread, Thread.cutOff_stream]⟩

theorem State.Effect.keepsStreams (h : s.Effect i s') : s.KeepsStreams s' := by
  cases h with
  | stay u hu => exact hu.hosts.keepsStreams
  | goto u p hu => exact hu.hosts.keepsStreams.trans (u.setThread_keepsStreams rfl)
  | finish u st v0 v1 hu => exact hu.hosts.keepsStreams.trans (u.setThread_keepsStreams rfl)
  | close u hu _ =>
    exact (hu.hosts.keepsStreams.trans u.cutOff_keepsStreams).trans (u.cutOff.setThread_keepsStreams rfl)

theorem agentStep_keepsStreams (hwf : s.cfg.wf = true) (h : agentStep s = .next s') : s.KeepsStreams s' := by
  rcases agentStep_cases hwf h with rfl | ⟨_, _, rfl⟩ | ⟨_, _, -, -, hm⟩ | ⟨c, -, hd⟩ | ⟨-, rfl⟩ | ⟨-, hl⟩
  · exact ⟨rfl, fun _ => rfl⟩
  · exact ⟨rfl, fun _ => rfl⟩
  · exact hm.effect.keepsStreams
  · exact (State.dmaStep_sameHosts hd).keepsStreams
  · exact ⟨rfl, fun _ => rfl⟩
  · rcases State.loaderStep_cases hl with rfl | ⟨hash, seed, -, rfl⟩
    · exact ⟨rfl, fun _ => rfl⟩
    · exact s.load_sameHosts.keepsStreams.trans (s.load.setThread_keepsStreams rfl)

/-- CLOSE leaves a thread, or cuts off a command of it that is neither OPEN nor CLOSE (60 R122). -/
theorem Thread.cutOff_eq (th : Thread) :
    th.cutOff = th ∨
      ∃ i p, th.running = some ⟨i, p⟩ ∧ i.isLifecycle = false ∧ th.cutOff = { th with running := some ⟨i, .cut⟩ } := by
  by_cases h : ∀ r, th.running = some r → r.instr.isLifecycle = true
  · exact .inl (Thread.cutOff_of_lifecycle h)
  · push Not at h
    obtain ⟨⟨i, p⟩, hr, hl⟩ := h
    have hl : i.isLifecycle = false := by simpa using hl
    exact .inr ⟨i, p, hr, hl, Thread.cutOff_of_command hr hl⟩

/-- A step of one thread's command leaves the other threads, except for CLOSE. -/
theorem State.Effect.thread_ne (h : s.Effect i s') {t : Nat} (ht : t ≠ s.tid) :
    s'.thread t = s.thread t ∨ (s.current = some ⟨.closeDev, .start⟩ ∧ s'.thread t = (s.thread t).cutOff) := by
  cases h with
  | stay u hu => exact .inl (hu.hosts.thread t)
  | goto u p hu | finish u _ _ _ hu =>
    exact .inl ((State.thread_setThread_ne u _ (hu.hosts.tid ▸ ht)).trans (hu.hosts.thread t))
  | close u hu hc =>
    refine .inr ⟨hc, (State.thread_setThread_ne u.cutOff _ (hu.hosts.tid ▸ ht)).trans ?_⟩
    rw [State.cutOff_thread, hu.hosts.thread]

/-- The two ways in which an agent changes a thread other than its own: the LOADER and CLOSE. -/
theorem agentStep_thread_other (hwf : s.cfg.wf = true) (h : agentStep s = .next s') {t : Nat} (ht : s.turn ≠ .host t) :
    s'.thread t = s.thread t ∨
      (s.turn = .loader ∧ t = 0 ∧ ∃ hash seed, (s.thread 0).running = some ⟨.openDev hash seed, .opening .load⟩ ∧
        s'.thread 0 = { s.thread 0 with running := some ⟨.openDev hash seed, .opening .recheckSentinel⟩ }) ∨
      (∃ closer, s.turn = .host closer ∧ (s.thread closer).running = some ⟨.closeDev, .start⟩ ∧
        s'.thread t = (s.thread t).cutOff) := by
  rcases agentStep_cases hwf h with rfl | ⟨_, _, rfl⟩ | ⟨k, i, hk, hlt, hm⟩ | ⟨c, -, hd⟩ | ⟨-, rfl⟩ | ⟨hturn, hl⟩
  · exact .inl rfl
  · exact .inl rfl
  · have htid := State.tid_of_host hk
    have hne : t ≠ s.tid := by
      rintro rfl
      exact ht (by rw [hk, htid])
    rcases hm.effect.thread_ne hne with e | ⟨hc, e⟩
    · exact .inl e
    · exact .inr (.inr ⟨k, hk, by rwa [State.current, htid] at hc, e⟩)
  · exact .inl ((State.dmaStep_sameHosts hd).thread t)
  · exact .inl rfl
  · rcases State.loaderStep_cases hl with rfl | ⟨hash, seed, hr, rfl⟩
    · exact .inl rfl
    · have hhosts := s.load_sameHosts
      have hlt : 0 < s.load.threads.length := by rw [hhosts.threads]; exact State.lt_threads_of_running hr
      by_cases h0 : t = 0
      · refine .inr (.inl ⟨hturn, h0, hash, seed, hr, ?_⟩)
        rw [State.putAt, State.thread_setThread_same _ _ hlt, hhosts.thread]
      · exact .inl ((State.thread_setThread_ne s.load _ h0).trans (hhosts.thread t))

/-- Settles O12: the parameters by `State.KeepsForm` and `State.KeepsStreams`, the other threads by
`agentStep_thread_other`. -/
theorem threadsAreSeparate : Obligations.ThreadsAreSeparate := by
  unfold Obligations.ThreadsAreSeparate
  intro s s' h
  have hcfg := (step_keepsForm h).cfg
  obtain ⟨-, hc, u, hu, rfl⟩ := step_next h
  have hwf := State.configOk_wf hc
  obtain ⟨hlen, hstream⟩ := agentStep_keepsStreams hwf hu
  refine ⟨hcfg, by rw [State.schedule_threads, hlen], fun t => ?_⟩
  simp only [State.schedule_thread]
  refine ⟨hstream t, fun ht => ?_⟩
  rcases agentStep_thread_other hwf hu ht with e | hload | ⟨closer, hturn, hclose, e⟩
  · exact .inl e
  · exact .inr (.inl hload)
  · rcases (s.thread t).cutOff_eq with hcut | ⟨i, p, hr, hl, hcut⟩
    · exact .inl (e.trans hcut)
    · exact .inr (.inr ⟨closer, i, p, hturn, hclose, hr, hl, e.trans hcut⟩)

end Sys2Proof.Machine
end

section
/-! PROOFS. The lifecycle invariant (spec 10 R22, 41 R77 to R85, 70 R138, R143), by the phase of `dev`: while it is OPEN the
commands keep the mappings and the energised bus, and while it is OPENING only thread 0's OPEN moves. -/

namespace Sys2Proof.Machine

open Sys2Proof

variable {s s' u v : State} {i : Instr}

/-! ### Only thread 0 is in OPEN or CLOSE -/

/-- The first part of `State.LifecycleInv`. -/
def State.OnlyThreadZero (s : State) : Prop :=
  ∀ t i p, (s.thread t).running = some ⟨i, p⟩ → i.isLifecycle = true → t = 0

theorem State.OnlyThreadZero.of_threads (h : s.OnlyThreadZero) (hu : u.threads = s.threads) : u.OnlyThreadZero := by
  intro t i p hr
  rw [State.thread_congr hu] at hr
  exact h t i p hr

theorem State.OnlyThreadZero.putAt (h : s.OnlyThreadZero) {t : Nat} (ht : i.isLifecycle = true → t = 0) (p : Point) :
    (s.putAt t i p).OnlyThreadZero := by
  intro k j q hr hl
  by_cases hk : k = t
  · subst hk
    rcases State.running_setThread_cases hr with hr | hr
    · cases hr; exact ht hl
    · exact h k j q hr hl
  · rw [State.putAt, State.thread_setThread_ne s _ hk] at hr
    exact h k j q hr hl

theorem State.OnlyThreadZero.finished (h : s.OnlyThreadZero) (st : Status) (v0 v1 : Option Word64) :
    (s.finished st v0 v1).OnlyThreadZero := by
  intro k j q hr hl
  rcases State.running_setThread_cases hr with hr | hr
  · cases hr
  · exact h k j q hr hl

theorem State.OnlyThreadZero.cutOff (h : s.OnlyThreadZero) : s.cutOff.OnlyThreadZero := by
  intro k j q hr hl
  rw [State.cutOff_thread] at hr
  rcases Thread.cutOff_cases hr with ⟨hr, -⟩ | ⟨hn, -⟩
  · exact h k j q hr hl
  · cases hl.symm.trans hn

/-! ### The invariant in each phase -/

theorem State.lifecycleOk_closed (hd : s.dev = .closed) : s.lifecycleOk ↔
    s.mapped = ⟨false, false, false, false⟩ ∧ s.busEnergized = false ∧
      ∀ i p, (s.thread 0).running = some ⟨i, p⟩ → i.isLifecycle = true → i ≠ .closeDev ∧ p = .start := by
  rw [State.lifecycleOk, hd]

theorem State.lifecycleOk_opening (hd : s.dev = .opening) : s.lifecycleOk ↔
    ∃ hash seed p, (s.thread 0).running = some ⟨.openDev hash seed, .opening p⟩ ∧
      s.mapped = p.mapped ∧ s.busEnergized = p.energised := by
  rw [State.lifecycleOk, hd]

theorem State.lifecycleOk_opened {tables : PerChan Table} (hd : s.dev = .opened tables) : s.lifecycleOk ↔
    s.mapped = ⟨true, true, true, false⟩ ∧ s.busEnergized = true ∧
      ∀ i p, (s.thread 0).running = some ⟨i, p⟩ → i.isLifecycle = true → i = .closeDev := by
  rw [State.lifecycleOk, hd]

/-- What the invariant reads, unchanged. -/
theorem State.LifecycleInv.of_same (h : s.LifecycleInv) (hth : u.threads = s.threads) (hd : u.dev = s.dev)
    (hm : u.mapped = s.mapped) (he : u.busEnergized = s.busEnergized) : u.LifecycleInv := by
  refine ⟨State.OnlyThreadZero.of_threads h.1 hth, ?_⟩
  rw [State.lifecycleOk, hd, hm, he, State.thread_congr hth]
  exact h.2

/-- The running thread is thread 0 where it is in OPEN or CLOSE. -/
theorem State.LifecycleInv.tid_eq (h : s.LifecycleInv) {p : Point} (hc : s.current = some ⟨i, p⟩)
    (hl : i.isLifecycle = true) : s.tid = 0 ∧ (s.thread 0).running = some ⟨i, p⟩ := by
  have ht := h.1 _ _ _ hc hl
  exact ⟨ht, by rwa [State.current, ht] at hc⟩

/-- OPEN at its first program point finds the device closed. -/
theorem State.LifecycleInv.at_openStart (h : s.LifecycleInv) {hash : Word64} {seed : Half}
    (hr : (s.thread 0).running = some ⟨.openDev hash seed, .start⟩) :
    s.mapped = ⟨false, false, false, false⟩ ∧ s.busEnergized = false := by
  cases hd : s.dev with
  | closed =>
    obtain ⟨hm, he, -⟩ := (State.lifecycleOk_closed hd).mp h.2
    exact ⟨hm, he⟩
  | opening =>
    obtain ⟨_, _, _, hr', -⟩ := (State.lifecycleOk_opening hd).mp h.2
    cases hr.symm.trans hr'
  | opened tables =>
    obtain ⟨-, -, hcl⟩ := (State.lifecycleOk_opened hd).mp h.2
    cases hcl _ _ hr rfl

/-- OPEN past its first step finds `dev` OPENING, and the mappings and the bus of its program point. -/
theorem State.LifecycleInv.at_opening (h : s.LifecycleInv) {hash : Word64} {seed : Half} {p : OpenPoint}
    (hr : (s.thread 0).running = some ⟨.openDev hash seed, .opening p⟩) :
    s.dev = .opening ∧ s.mapped = p.mapped ∧ s.busEnergized = p.energised := by
  cases hd : s.dev with
  | closed =>
    obtain ⟨-, -, hst⟩ := (State.lifecycleOk_closed hd).mp h.2
    cases (hst _ _ hr rfl).2
  | opening =>
    obtain ⟨_, _, _, hr', hm, he⟩ := (State.lifecycleOk_opening hd).mp h.2
    cases hr.symm.trans hr'
    exact ⟨rfl, hm, he⟩
  | opened tables =>
    obtain ⟨-, -, hcl⟩ := (State.lifecycleOk_opened hd).mp h.2
    cases hcl _ _ hr rfl

/-! ### Commands while `dev` is OPEN -/

/-- `u` has the host threads of an OPEN `s`, its mappings and its energised bus; the tables may differ. -/
structure State.KeepsOpen (s u : State) : Prop where
  hosts : s.SameHosts u
  isOpen : s.IsOpen
  isOpen' : u.IsOpen
  mapped : u.mapped = s.mapped
  energized : s.busEnergized = true → u.busEnergized = true

theorem State.IsOpen.keepsOpen (h : s.IsOpen) : s.KeepsOpen s := ⟨.refl s, h, h, rfl, id⟩

theorem State.Reads.keepsOpen (h : s.Reads u) (ho : s.IsOpen) : s.KeepsOpen u := by
  obtain ⟨-, -, -, -, hdev, hm, -⟩ := h.frame
  exact ⟨h.sameHosts, ho, by rwa [State.IsOpen, hdev], hm, h.2⟩

theorem State.writeRegister_keepsOpen {r : Reg} {off : Nat} {x : Half} (h : s.writeRegister r off x = .done () u)
    (ho : s.IsOpen) : s.KeepsOpen u := by
  obtain ⟨-, -, -, -, hdev, hm, he, -⟩ := State.writeRegister_sameBlock h
  exact ⟨State.writeRegister_sameHosts h, ho, by rwa [State.IsOpen, hdev], hm, fun e => he.trans e⟩

theorem State.writeCtrl_keepsOpen {c : Chan} {off : Nat} {x : Half} (h : s.writeCtrl c off x = .done () u)
    (ho : s.IsOpen) : s.KeepsOpen u := State.writeRegister_keepsOpen (r := .ctrl c) h ho

theorem State.KeepsOpen.setTable (h : s.KeepsOpen u) (tables : PerChan Table) (c : Chan) (t : Table) :
    s.KeepsOpen (u.setTable tables c t) :=
  ⟨h.hosts.trans (State.setTable_sameHosts ..), h.isOpen, ⟨_, rfl⟩, h.mapped, h.energized⟩

/-- A thread of an OPEN device moves on in a command other than OPEN and CLOSE, or completes it, or starts CLOSE: any
update of the threads that brings no other lifecycle command. -/
theorem State.KeepsOpen.lifecycleInv (h : s.KeepsOpen u) (hs : s.LifecycleInv) (hz : v.OnlyThreadZero)
    (hd : v.dev = u.dev) (hm : v.mapped = u.mapped) (he : v.busEnergized = u.busEnergized)
    (hr : ∀ r, (v.thread 0).running = some r → (u.thread 0).running = some r ∨ r.instr.isLifecycle = false ∨
      r.instr = .closeDev) : v.LifecycleInv := by
  obtain ⟨tables, hdev⟩ := h.isOpen
  obtain ⟨tables', hdev'⟩ := h.isOpen'
  obtain ⟨hmap, hbus, hcl⟩ := (State.lifecycleOk_opened hdev).mp hs.2
  refine ⟨hz, (State.lifecycleOk_opened (hd.trans hdev')).mpr ⟨?_, ?_, fun j p hj hl => ?_⟩⟩
  · rw [hm, h.mapped, hmap]
  · rw [he, h.energized hbus]
  · rcases hr _ hj with hj | hn | e
    · rw [h.hosts.thread] at hj
      exact hcl j p hj hl
    · cases hl.symm.trans hn
    · exact e

theorem State.KeepsOpen.goto (h : s.KeepsOpen u) (hs : s.LifecycleInv)
    (hi : i.isLifecycle = false ∨ (i = .closeDev ∧ s.tid = 0)) (p : Point) : (u.goto i p).LifecycleInv := by
  refine h.lifecycleInv hs ?_ rfl rfl rfl fun r hr => ?_
  · refine State.OnlyThreadZero.putAt (State.OnlyThreadZero.of_threads hs.1 h.hosts.threads) (fun hl => ?_) p
    rcases hi with hn | ⟨-, ht⟩
    · cases hl.symm.trans hn
    · rw [h.hosts.tid, ht]
  · rcases State.running_setThread_cases hr with hr | hr
    · cases hr
      rcases hi with hn | ⟨e, -⟩
      · exact .inr (.inl hn)
      · exact .inr (.inr e)
    · exact .inl hr

theorem State.KeepsOpen.finished (h : s.KeepsOpen u) (hs : s.LifecycleInv) (st : Status) (v0 v1 : Option Word64) :
    (u.finished st v0 v1).LifecycleInv := by
  refine h.lifecycleInv hs ?_ rfl rfl rfl fun r hr => ?_
  · exact (State.OnlyThreadZero.of_threads hs.1 h.hosts.threads).finished st v0 v1
  · rcases State.running_setThread_cases hr with hr | hr
    · cases hr
    · exact .inl hr

theorem Instr.drains.not_lifecycle {c : Chan} (h : Instr.drains i c) : i.isLifecycle = false := by
  rcases h with rfl | rfl | ⟨us, rfl⟩ <;> rfl

/-! ### OPEN and CLOSE -/

/-- OPEN's entry step leaves the closed device as it is. -/
theorem State.LifecycleInv.enterOpen (hs : s.LifecycleInv) (hd : s.dev = .closed) (ht : s.tid = 0) (hash : Word64)
    (seed : Half) : (s.goto (.openDev hash seed) .start).LifecycleInv := by
  obtain ⟨hm, he, hst⟩ := (State.lifecycleOk_closed hd).mp hs.2
  refine ⟨State.OnlyThreadZero.putAt hs.1 (fun _ => ht) .start,
    (State.lifecycleOk_closed (s := s.goto (.openDev hash seed) .start) hd).mpr ⟨hm, he, fun j p hr hl => ?_⟩⟩
  rcases State.running_setThread_cases hr with hr | hr
  · cases hr; exact ⟨nofun, rfl⟩
  · exact hst j p hr hl

/-- Thread 0's OPEN goes on to a program point whose mappings and bus are those of the state. -/
theorem State.LifecycleInv.putOpening (hs : s.LifecycleInv) (hu : s.SameHosts u) (hlt : 0 < s.threads.length)
    (hash : Word64) (seed : Half) {q : OpenPoint} (hd : u.dev = .opening) (hm : u.mapped = q.mapped)
    (he : u.busEnergized = q.energised) : (u.putAt 0 (.openDev hash seed) (.opening q)).LifecycleInv := by
  refine ⟨(State.OnlyThreadZero.of_threads hs.1 hu.threads).putAt (fun _ => rfl) _,
    (State.lifecycleOk_opening (s := u.putAt 0 _ _) hd).mpr ⟨hash, seed, q, ?_, hm, he⟩⟩
  rw [State.putAt, State.thread_setThread_same _ _ (by rwa [hu.threads])]

theorem State.goto_eq_putAt (ht : s.tid = 0) (i : Instr) (p : Point) : s.goto i p = s.putAt 0 i p := by
  rw [State.goto, ht]

/-- Thread 0 completes OPEN or CLOSE in a state whose mappings and bus are those of the phase it ends in. -/
theorem State.OnlyThreadZero.finished_lifecycleInv (hz : u.OnlyThreadZero) (hlt : 0 < u.threads.length)
    (ht : u.tid = 0) (st : Status) (v0 v1 : Option Word64)
    (h : (u.dev = .closed ∧ u.mapped = ⟨false, false, false, false⟩ ∧ u.busEnergized = false) ∨
      (u.IsOpen ∧ u.mapped = ⟨true, true, true, false⟩ ∧ u.busEnergized = true)) :
    (u.finished st v0 v1).LifecycleInv := by
  have hidle : ((u.finished st v0 v1).thread 0).running = none := by
    rw [State.finished, ht, State.thread_setThread_same u _ hlt]; rfl
  refine ⟨hz.finished st v0 v1, ?_⟩
  rcases h with ⟨hd, hm, he⟩ | ⟨⟨tables, hd⟩, hm, he⟩
  · refine (State.lifecycleOk_closed (s := u.finished st v0 v1) hd).mpr ⟨hm, he, fun j p hr => ?_⟩
    cases hidle.symm.trans hr
  · refine (State.lifecycleOk_opened (s := u.finished st v0 v1) hd).mpr ⟨hm, he, fun j p hr => ?_⟩
    cases hidle.symm.trans hr

/-- A mapping step that succeeds gives the mappings and the bus of the next program point (41 R78). -/
theorem State.mapDone_lifecycle {m : MapStep} (hm : s.mapped = (OpenPoint.map m).mapped) (he : s.busEnergized = false) :
    (s.mapDone m).dev = s.dev ∧ (s.mapDone m).mapped = m.after.mapped ∧
      (s.mapDone m).busEnergized = m.after.energised := by
  have hadd (w : Window) : s.mapped.add w = (OpenPoint.map m).mapped.add w := by rw [hm]
  cases m with
  | node => exact ⟨rfl, hm, he⟩
  | reg => exact ⟨rfl, hadd .reg, he⟩
  | framer => exact ⟨rfl, hadd .framer, he⟩
  | deframer => exact ⟨rfl, hadd .deframer, rfl⟩

/-- What the invariant says where thread 0 is next to step at program point `p` of OPEN. -/
structure State.InOpen (s : State) (p : OpenPoint) : Prop where
  inv : s.LifecycleInv
  nonempty : 0 < s.threads.length
  tid : s.tid = 0
  dev : s.dev = .opening
  mapped : s.mapped = p.mapped
  energised : s.busEnergized = p.energised

theorem State.LifecycleInv.inOpen (hs : s.LifecycleInv) {hash : Word64} {seed : Half} {p : OpenPoint}
    (hc : s.current = some ⟨.openDev hash seed, .opening p⟩) : s.InOpen p := by
  obtain ⟨ht, hr⟩ := hs.tid_eq hc rfl
  obtain ⟨hd, hm, he⟩ := hs.at_opening hr
  exact ⟨hs, State.lt_threads_of_running hr, ht, hd, hm, he⟩

variable {p q : OpenPoint}

theorem State.InOpen.goto (h : s.InOpen p) (hu : s.SameHosts u) (hash : Word64) (seed : Half) (hd : u.dev = s.dev)
    (hm : u.mapped = q.mapped) (he : u.busEnergized = q.energised) :
    (u.goto (.openDev hash seed) (.opening q)).LifecycleInv := by
  rw [State.goto_eq_putAt (hu.tid.trans h.tid)]
  exact h.inv.putOpening hu h.nonempty hash seed (hd.trans h.dev) hm he

/-- A fatal end of OPEN (41 R77). -/
theorem State.InOpen.unwind (h : s.InOpen p) (hu : s.SameHosts u) (st : Status) (v0 v1 : Option Word64) :
    (u.unwind.finished st v0 v1).LifecycleInv := by
  have hz : u.unwind.OnlyThreadZero := State.OnlyThreadZero.of_threads h.inv.1 hu.threads
  refine hz.finished_lifecycleInv ?_ (hu.tid.trans h.tid) st v0 v1 (.inl ⟨rfl, rfl, rfl⟩)
  rw [State.unwind_threads, hu.threads]; exact h.nonempty

/-- A successful end of OPEN (41 R82 to R84). -/
theorem State.InOpen.openEnd (h : s.InOpen p) (hu : s.SameHosts u) (loaded : Bool) (hm : u.mapped = ⟨true, true, true, true⟩)
    (he : u.busEnergized = true) : (u.openEnd loaded).LifecycleInv := by
  have hlt : 0 < u.threads.length := by rw [hu.threads]; exact h.nonempty
  have hz : u.OnlyThreadZero := State.OnlyThreadZero.of_threads h.inv.1 hu.threads
  refine State.OnlyThreadZero.finished_lifecycleInv
    (u := { u with mapped := { u.mapped with test := false }, dev := .opened (Config.freshTables u.cfg) })
    hz hlt (hu.tid.trans h.tid) _ _ _ (.inr ⟨⟨_, rfl⟩, ?_, he⟩)
  rw [hm]

theorem State.DrawsOnly.lifecycle (h : s.DrawsOnly u) :
    u.dev = s.dev ∧ u.mapped = s.mapped ∧ u.busEnergized = s.busEnergized := by
  rw [h]; exact ⟨rfl, rfl, rfl⟩

/-- After the TEST mapping step (41 R82). -/
theorem State.DrawsOnly.testMapped (h : s.DrawsOnly u) (hm : s.mapped = ⟨true, true, true, false⟩)
    (he : s.busEnergized = true) : s.SameHosts u.testMapped ∧ u.testMapped.dev = s.dev ∧
      u.testMapped.mapped = ⟨true, true, true, true⟩ ∧ u.testMapped.busEnergized = true := by
  obtain ⟨hd, hmap, hbus⟩ := h.lifecycle
  refine ⟨h.sameHosts.trans ⟨rfl, rfl, rfl⟩, hd, ?_, hbus.trans he⟩
  show u.mapped.add .test = _
  rw [hmap, hm]; rfl

/-! ### Every step -/

/-- Every move of a command keeps the invariant. -/
theorem State.Move.lifecycleInv (h : s.Move i s') (hs : s.LifecycleInv) : s'.LifecycleInv := by
  cases h with
  | halt => exact hs.of_same rfl rfl rfl rfl
  | stay => exact hs
  | enter _ tables h hl hd ho => exact (State.IsOpen.keepsOpen ⟨_, hd⟩).goto hs (.inl hl) _
  | enterOpen hash seed h ht hd => exact hs.enterOpen hd ht hash seed
  | enterClose tables h ht hd => exact (State.IsOpen.keepsOpen ⟨_, hd⟩).goto hs (.inr ⟨rfl, ht⟩) _
  | regRd | drainEnd | clkGot => exact (‹s.Reads _›.keepsOpen ⟨_, ‹_›⟩).finished hs _ _ _
  | memRd8 => exact (‹s.DrawsOnly _›.reads.keepsOpen ⟨_, ‹_›⟩).finished hs _ _ _
  | regWr | clkDone => exact (State.writeRegister_keepsOpen ‹_› ⟨_, ‹_›⟩).finished hs _ _ _
  | relOnly | relSecond => exact (State.writeCtrl_keepsOpen ‹_› ⟨_, ‹_›⟩).finished hs _ _ _
  | memWr8 w a b tables hc hd =>
    have hu : s.KeepsOpen (s.storeByte w a.toNat b) := ⟨⟨rfl, rfl, rfl⟩, ⟨_, hd⟩, ⟨_, hd⟩, rfl, id⟩
    exact hu.finished hs _ _ _
  | query => exact (State.IsOpen.keepsOpen ⟨_, ‹_›⟩).finished hs _ _ _
  | acqHead | markRel | markTail => exact ((State.IsOpen.keepsOpen ⟨_, ‹_›⟩).setTable _ _ _).finished hs _ _ _
  | drainAcquire => exact ((‹s.Reads _›.keepsOpen ⟨_, ‹_›⟩).setTable _ _ _).finished hs _ _ _
  | drainSeen | drainStatus =>
    exact (‹s.Reads _›.keepsOpen ⟨_, ‹_›⟩).goto hs (.inl ‹Instr.drains _ _›.not_lifecycle) _
  | drainMark =>
    exact ((State.IsOpen.keepsOpen ⟨_, ‹_›⟩).setTable _ _ _).goto hs (.inl ‹Instr.drains _ _›.not_lifecycle) _
  | drainAck _ c tables n hi hc hd =>
    have hu : s.KeepsOpen { s with cmplQ := s.cmplQ.set c (s.cmplQ.get c).tail } :=
      ⟨⟨rfl, rfl, rfl⟩, ⟨_, hd⟩, ⟨_, hd⟩, rfl, id⟩
    exact hu.goto hs (.inl hi.not_lifecycle) _
  | drainWait | clkRead => exact (‹s.Reads _›.keepsOpen ⟨_, ‹_›⟩).goto hs (.inl rfl) _
  | waited => exact (State.IsOpen.keepsOpen ⟨_, ‹_›⟩).goto hs (.inl rfl) _
  | relMark => exact ((State.IsOpen.keepsOpen ⟨_, ‹_›⟩).setTable _ _ _).goto hs (.inl rfl) _
  | relFirst => exact (State.writeCtrl_keepsOpen ‹_› ⟨_, ‹_›⟩).goto hs (.inl rfl) _
  | clkWrite _ tables p q r x u hi h hd hr hu =>
    refine (State.writeRegister_keepsOpen hu ⟨_, hd⟩).goto hs (.inl ?_) _
    rcases hi with ⟨rfl, -⟩ | ⟨ns, rfl, -⟩ <;> rfl
  | close h =>
    obtain ⟨ht, hr⟩ := hs.tid_eq h rfl
    have hz : s.cutOff.unwind.OnlyThreadZero := State.OnlyThreadZero.cutOff hs.1
    refine hz.finished_lifecycleInv ?_ ht _ _ _ (.inl ⟨rfl, rfl, rfl⟩)
    rw [State.unwind_threads, State.cutOff_threads_length]
    exact State.lt_threads_of_running hr
  | openStart hash seed h =>
    obtain ⟨ht, hr⟩ := hs.tid_eq h rfl
    obtain ⟨hm, he⟩ := hs.at_openStart hr
    rw [State.goto_eq_putAt (s := { s with dev := .opening }) ht]
    exact hs.putOpening (u := { s with dev := .opening }) (q := .map .node) ⟨rfl, rfl, rfl⟩
      (State.lt_threads_of_running hr) hash seed rfl hm he
  | openMap hash seed m u h hu =>
    have ho := hs.inOpen h
    obtain ⟨hd, hm, he⟩ := hu.lifecycle
    obtain ⟨hd', hm', he'⟩ := State.mapDone_lifecycle (hm.trans ho.mapped) (he.trans ho.energised)
    exact ho.goto (hu.sameHosts.trans (u.mapDone_sameHosts m)) hash seed (hd'.trans hd) hm' he'
  | openFail hash seed p u st v0 v1 h hu => exact (hs.inOpen h).unwind hu.sameHosts st v0 v1
  | openRead hash seed p q u h hu he hm hq =>
    obtain ⟨-, -, -, -, hd, hmap, -⟩ := hu.frame
    have ho := hs.inOpen h
    exact ho.goto hu.sameHosts hash seed hd (hmap.trans (ho.mapped.trans hm.symm)) (he.trans hq.symm)
  | openWrite hash seed p q r x u h he hr hu hm hq =>
    obtain ⟨-, -, -, -, hd, hmap, hbus, -⟩ := State.writeRegister_sameBlock hu
    have ho := hs.inOpen h
    exact ho.goto (State.writeRegister_sameHosts hu) hash seed hd (hmap.trans (ho.mapped.trans hm.symm))
      ((hbus.trans he).trans hq.symm)
  | openTest hash seed loaded u h hu =>
    have ho := hs.inOpen h
    obtain ⟨hhosts, hd, hm, he⟩ := hu.testMapped ho.mapped ho.energised
    exact ho.goto hhosts hash seed hd hm he
  | openTestEnd hash seed loaded u h hu =>
    have ho := hs.inOpen h
    obtain ⟨hhosts, -, hm, he⟩ := hu.testMapped ho.mapped ho.energised
    exact ho.openEnd hhosts loaded hm he
  | openMemWrite hash seed loaded k b q h hq =>
    have ho := hs.inOpen h
    rcases hq with ⟨j, rfl⟩ | ⟨j, rfl⟩ <;> exact ho.goto ⟨rfl, rfl, rfl⟩ hash seed rfl ho.mapped ho.energised
  | openMemWriteEnd hash seed loaded k b h =>
    have ho := hs.inOpen h
    exact ho.openEnd ⟨rfl, rfl, rfl⟩ loaded ho.mapped ho.energised
  | openMemRead hash seed loaded k j u h hu =>
    have ho := hs.inOpen h
    obtain ⟨hd, hm, he⟩ := hu.lifecycle
    exact ho.goto hu.sameHosts hash seed hd (hm.trans ho.mapped) (he.trans ho.energised)
  | openMemReadEnd hash seed loaded k u h hu =>
    have ho := hs.inOpen h
    obtain ⟨-, hm, he⟩ := hu.lifecycle
    exact ho.openEnd hu.sameHosts loaded (hm.trans ho.mapped) (he.trans ho.energised)

theorem State.LifecycleInv.dmaStep (hs : s.LifecycleInv) {c : Chan} (h : s.dmaStep c = .next s') : s'.LifecycleInv := by
  rcases State.dmaStep_cases h with rfl | ⟨_, _, rfl⟩ | ⟨-, _, _, _, _, _, u, -, hu, rfl⟩ | ⟨-, _, _, _, _, u, -, hu, rfl⟩
  · exact hs
  · exact hs.of_same rfl rfl rfl rfl
  all_goals
    obtain ⟨hd, hm, he⟩ := hu.lifecycle
    exact hs.of_same hu.sameHosts.threads hd hm he

theorem State.LifecycleInv.loaderStep (hs : s.LifecycleInv) (h : s.loaderStep = .next s') : s'.LifecycleInv := by
  rcases State.loaderStep_cases h with rfl | ⟨hash, seed, hr, rfl⟩
  · exact hs
  · obtain ⟨hd, hm, he⟩ := hs.at_opening hr
    exact hs.putOpening s.load_sameHosts (State.lt_threads_of_running hr) hash seed (s.draw_dev.trans hd)
      (s.draw_mapped.trans hm) (s.draw_busEnergized.trans he)

theorem agentStep_lifecycleInv (hwf : s.cfg.wf = true) (hs : s.LifecycleInv) (h : agentStep s = .next s') :
    s'.LifecycleInv := by
  rcases agentStep_cases hwf h with rfl | ⟨_, _, rfl⟩ | ⟨_, _, -, -, hm⟩ | ⟨c, -, hd⟩ | ⟨-, rfl⟩ | ⟨-, hl⟩
  · exact hs
  · exact hs.of_same rfl rfl rfl rfl
  · exact hm.lifecycleInv hs
  · exact hs.dmaStep hd
  · exact hs.of_same rfl rfl rfl rfl
  · exact hs.loaderStep hl

/-- Settles O33: by the moves of a command, the engines and the LOADER; the choice of the next agent reads none of it. -/
theorem lifecycleInvariant : Obligations.LifecycleInvariant := by
  unfold Obligations.LifecycleInvariant
  intro s s' hs h
  obtain ⟨-, hc, u, hu, rfl⟩ := step_next h
  exact (agentStep_lifecycleInv (State.configOk_wf hc) hs hu).of_same u.schedule_threads u.schedule_dev u.schedule_mapped
    u.schedule_busEnergized

end Sys2Proof.Machine
end

section
/-! PROOFS. The step of each agent as a function of the turn (spec 10 R14, R20, 60 R121), the power-on values (10 R38), and
the invariants at power-on. -/

namespace Sys2Proof.Machine

open Sys2Proof

variable {s s' u v : State} {i : Instr} {t : Nat}

/-! ### The step by the turn -/

/-- Without a fault and in an accepted configuration a step is the agent's own, and then the choice of the next agent. -/
theorem step_eq (hf : s.faults = []) (hc : s.configOk = true) :
    step s = andThen (agentStep s) fun u => .next u.schedule := by
  unfold step
  rw [if_neg (not_not.mpr hf), if_neg (by simp [hc])]
  cases agentStep s <;> rfl

theorem agentStep_of_host (ht : s.turn = .host t) : agentStep s = hostStep t s := by rw [agentStep, ht]

theorem agentStep_of_dma {c : Chan} (ht : s.turn = .dma c) : agentStep s = s.dmaStep c := by rw [agentStep, ht]

theorem agentStep_of_clock (ht : s.turn = .clock) : agentStep s = s.clockStep := by rw [agentStep, ht]

theorem agentStep_of_loader (ht : s.turn = .loader) : agentStep s = s.loaderStep := by rw [agentStep, ht]

theorem hostStep_of_run (h : s.fetch t = .run i) : hostStep t s = exec i s := by rw [hostStep, h]

theorem hostStep_of_idle (h : s.fetch t = .idle) : hostStep t s = .next s := by rw [hostStep, h]

/-- A thread that there is fetches as its record says. -/
theorem State.fetch_eq (h : t < s.threads.length) : s.fetch t = (s.thread t).fetch := by
  rw [State.fetch, State.thread, List.getD_eq_getElem?_getD, List.getElem?_eq_getElem h]
  rfl

theorem State.fetch_of_length_le (h : s.threads.length ≤ t) : s.fetch t = .idle := by
  rw [State.fetch, List.getElem?_eq_none h]

theorem Thread.fetch_of_running {th : Thread} {r : Running} (h : th.running = some r) : th.fetch = .run r.instr := by
  rw [Thread.fetch, h]

theorem Thread.fetch_of_word {th : Thread} {w : CmdWord} (h : th.running = none) (hw : th.stream[th.cp]? = some w)
    (hd : decode w = .ok i) : th.fetch = .run i := by
  rw [Thread.fetch, h, hw]
  simp only [hd]

theorem Thread.fetch_of_done {th : Thread} (h : th.running = none) (hl : th.stream.length ≤ th.cp) :
    th.fetch = .idle := by
  rw [Thread.fetch, h, List.getElem?_eq_none hl]

/-- Settles O6: the thread fetches the command that it has in progress, or else the one that its word decodes to. -/
theorem stepRunsDecodedCommand : Obligations.StepRunsDecodedCommand := by
  unfold Obligations.StepRunsDecodedCommand
  intro s t i hf hc ht hlt hcmd
  have hfetch : (s.thread t).fetch = .run i := by
    rcases hcmd with ⟨p, hr⟩ | ⟨hr, w, hw, hd⟩
    · exact Thread.fetch_of_running hr
    · exact Thread.fetch_of_word hr hw hd
  have hagent : agentStep s = exec i s := by
    rw [agentStep_of_host ht, hostStep_of_run (by rw [State.fetch_eq hlt, hfetch])]
  rw [step_eq hf hc, hagent]
  refine ⟨fun s' h => ?_, fun e h => ?_, fun e h => ?_⟩ <;> rw [h, andThen]

theorem State.dmaStep_of_disabled {c : Chan}
    (h : s.cfg.fabricResponds = false ∨ s.resetAsserted = true ∨ s.descQ.get c = []) : s.dmaStep c = .next s := by
  unfold State.dmaStep
  split
  · rfl
  · next hen =>
    rw [not_or] at hen
    rcases h with h | h | h
    · exact absurd h hen.1
    · exact absurd h hen.2
    · rw [h]

theorem State.loaderStep_of_not_waiting
    (h : ∀ hash seed, (s.thread 0).running ≠ some ⟨.openDev hash seed, .opening .load⟩) : s.loaderStep = .next s := by
  unfold State.loaderStep
  split
  · next hash seed hr => exact absurd hr (h hash seed)
  · rfl

/-- Settles O7: the agent's step by its turn, and the cases in which it changes nothing. -/
theorem stepRunsOtherAgents : Obligations.StepRunsOtherAgents := by
  unfold Obligations.StepRunsOtherAgents
  intro s hf hc
  have hstep {u : State} (h : agentStep s = .next u) : step s = .next u.schedule := by rw [step_eq hf hc, h, andThen]
  refine ⟨fun ht => hstep (agentStep_of_clock ht), fun c ht hd => hstep ?_, fun c s' ht hd => hstep ?_,
    fun ht hr => hstep ?_, fun t ht hd => hstep ?_⟩
  · rw [agentStep_of_dma ht, State.dmaStep_of_disabled hd]
  · rw [agentStep_of_dma ht, hd]
  · rw [agentStep_of_loader ht, State.loaderStep_of_not_waiting hr]
  · rw [agentStep_of_host ht, hostStep_of_idle]
    by_cases hlt : t < s.threads.length
    · obtain ⟨hr, hl⟩ := hd.resolve_left (by omega)
      rw [State.fetch_eq hlt, Thread.fetch_of_done hr hl]
    · exact State.fetch_of_length_le (by omega)

/-! ### Power-on (10 R38) -/

variable (cfg : Config) (streams : List (List CmdWord))

theorem State.powerOn_thread (t : Nat) :
    (State.powerOn cfg streams).thread t = Thread.powerOn (streams.getD t []) := by
  simp only [State.thread, State.powerOn, List.getD_eq_getElem?_getD, List.getElem?_map]
  cases streams[t]? <;> rfl

theorem State.powerOn_running (t : Nat) : ((State.powerOn cfg streams).thread t).running = none := by
  rw [State.powerOn_thread]; rfl

/-- No thread has a command in progress at power-on, so what is asked of the commands in progress holds. -/
theorem State.powerOn_not_running {t : Nat} {r : Running} : ((State.powerOn cfg streams).thread t).running ≠ some r := by
  rw [State.powerOn_running]; exact nofun

theorem State.powerOn_byteAt (w : Window) (a : Nat) : (State.powerOn cfg streams).byteAt w a = none := by
  cases w <;> rfl

/-- Settles O13: the values as `State.powerOn` gives them. -/
theorem powerOnValues : Obligations.PowerOnValues := by
  unfold Obligations.PowerOnValues
  refine ⟨fun cfg streams => ?_, rfl⟩
  intro s
  refine ⟨fun t ht => ?_, rfl, rfl, rfl, rfl, rfl, rfl, rfl, rfl, fun c => ?_, rfl, fun k => ?_, rfl,
    State.powerOn_byteAt cfg streams⟩
  · rw [State.powerOn_thread cfg streams t, List.getD_eq_getElem _ _ ht, List.getElem?_eq_getElem ht]
    exact ⟨rfl, rfl, rfl, rfl, rfl, rfl⟩
  · exact ⟨PerChan.get_all .., PerChan.get_all .., PerChan.get_all .., PerChan.get_all .., PerChan.get_all ..⟩
  · exact ⟨PerField.get_all .., PerField.get_all ..⟩

theorem State.powerOn_queuesInv : (State.powerOn cfg streams).QueuesInv := by
  intro c
  have hd : (State.powerOn cfg streams).descQ.get c = [] := PerChan.get_all ..
  rw [hd]
  exact ⟨Nat.zero_le _, fun d h => absurd h List.not_mem_nil, fun _ => ⟨PerChan.get_all .., PerChan.get_all ..⟩,
    fun _ => PerChan.get_all ..⟩

theorem State.powerOn_lifecycleInv : (State.powerOn cfg streams).LifecycleInv :=
  ⟨fun _ _ _ h => absurd h (State.powerOn_not_running cfg streams),
    rfl, rfl, fun _ _ h => absurd h (State.powerOn_not_running cfg streams)⟩

/-- Settles O36: at power-on `dev` is CLOSED, the queues and windows are empty, and no command is in progress. -/
theorem invariantsHoldAtPowerOn : Obligations.InvariantsHoldAtPowerOn := by
  unfold Obligations.InvariantsHoldAtPowerOn
  intro cfg streams s
  have hidle {t : Nat} {r : Running} : (s.thread t).running ≠ some r := State.powerOn_not_running cfg streams
  exact ⟨rfl, nofun, State.powerOn_queuesInv cfg streams, fun _ _ h => absurd h hidle, fun _ _ _ _ h => absurd h hidle,
    State.powerOn_lifecycleInv cfg streams, nofun, fun _ _ _ _ h => absurd h hidle, fun c =>
      ⟨nofun, fun _ _ _ h => absurd h hidle⟩⟩

end Sys2Proof.Machine
end

section
/-! PROOFS. Only a channel's owner runs its commands (spec 20 R55, 60 R121): a command is checked at its entry step, and no
later step changes which command a thread runs. -/

namespace Sys2Proof.Machine

open Sys2Proof

variable {s s' u : State} {i : Instr}

theorem State.OwnersInv.of_threads (h : s.OwnersInv) (hcfg : u.cfg = s.cfg) (hu : u.threads = s.threads) :
    u.OwnersInv := by
  intro t j p c hr hc
  rw [State.thread_congr hu] at hr
  rw [hcfg]
  exact h t j p c hr hc

/-- Thread `t` may be put in a command of a channel that it owns, and in one of no channel. -/
theorem State.OwnersInv.putAt (h : s.OwnersInv) {t : Nat} (ho : ∀ c, i.ownedChan = some c → t = s.cfg.owner.get c)
    (p : Point) : (s.putAt t i p).OwnersInv := by
  intro k j q c hr hc
  by_cases hk : k = t
  · subst hk
    rcases State.running_setThread_cases hr with hr | hr
    · cases hr; exact ho c hc
    · exact h k j q c hr hc
  · rw [State.putAt, State.thread_setThread_ne s _ hk] at hr
    exact h k j q c hr hc

theorem State.OwnersInv.finished (h : s.OwnersInv) (st : Status) (v0 v1 : Option Word64) :
    (s.finished st v0 v1).OwnersInv := by
  intro k j q c hr hc
  rcases State.running_setThread_cases hr with hr | hr
  · cases hr
  · exact h k j q c hr hc

theorem State.OwnersInv.cutOff (h : s.OwnersInv) : s.cutOff.OwnersInv := by
  intro k j q c hr hc
  rw [State.cutOff_thread] at hr
  rcases Thread.cutOff_cases hr with ⟨hr, -⟩ | ⟨-, -, p, hr⟩
  · exact h k j q c hr hc
  · exact h k j p c hr hc

/-- A thread that moves on in a channel's command owns the channel: at the entry step by the check of 60 R121, at every
later step because the command was already in progress. -/
theorem State.Move.threads_eq_or_owner (h : s.Move i s') (hs : s.OwnersInv) :
    s'.threads = s.threads ∨ ∀ c, i.ownedChan = some c → s.tid = s.cfg.owner.get c := by
  cases h with
  | halt | stay => exact .inl rfl
  | enter _ tables hn hl hd ho => exact .inr ho
  | enterOpen | enterClose => exact .inr nofun
  | _ => exact .inr fun c => hs _ _ _ c ‹s.current = some _›

theorem State.Move.ownersInv (h : s.Move i s') (hs : s.OwnersInv) : s'.OwnersInv := by
  rcases h.threads_eq_or_owner hs with hth | ho
  · exact hs.of_threads h.effect.keepsForm.cfg hth
  · have keep {u : State} (hu : s.Keeps u) : u.OwnersInv := hs.of_threads hu.form.cfg hu.hosts.threads
    cases h.effect with
    | stay u hu => exact keep hu
    | goto u p hu =>
      refine (keep hu).putAt (fun c hc => ?_) p
      rw [hu.hosts.tid, hu.form.cfg]
      exact ho c hc
    | finish u st v0 v1 hu => exact (keep hu).finished st v0 v1
    | close u hu hc => exact (keep hu).cutOff.finished _ _ _

theorem agentStep_ownersInv (hwf : s.cfg.wf = true) (hs : s.OwnersInv) (h : agentStep s = .next s') : s'.OwnersInv := by
  rcases agentStep_cases hwf h with rfl | ⟨_, _, rfl⟩ | ⟨_, _, -, -, hm⟩ | ⟨c, -, hd⟩ | ⟨-, rfl⟩ | ⟨-, hl⟩
  · exact hs
  · exact hs.of_threads rfl rfl
  · exact hm.ownersInv hs
  · exact hs.of_threads (State.dmaStep_cfg hd) (State.dmaStep_sameHosts hd).threads
  · exact hs.of_threads rfl rfl
  · rcases State.loaderStep_cases hl with rfl | ⟨hash, seed, -, rfl⟩
    · exact hs
    · exact (hs.of_threads s.load_keeps.form.cfg s.load_sameHosts.threads).putAt (i := .openDev hash seed) nofun _

/-- Settles O32: the invariant by `agentStep_ownersInv`; two threads in commands of one channel are both its owner. -/
theorem onlyOwnersRunChannelCommands : Obligations.OnlyOwnersRunChannelCommands := by
  unfold Obligations.OnlyOwnersRunChannelCommands
  constructor
  · intro s s' hs h
    obtain ⟨-, hc, u, hu, rfl⟩ := step_next h
    exact (agentStep_ownersInv (State.configOk_wf hc) hs hu).of_threads u.schedule_cfg u.schedule_threads
  · intro s t t' i i' p p' c hs hr hr' hc hc'
    exact (hs t i p c hr hc).trans (hs t' i' p' c hr' hc').symm

end Sys2Proof.Machine
end

section
/-! PROOFS. The check of a host frame-memory access (spec 20 R44), and MEM_RD8 and MEM_WR8 by its outcome (40 R72, R75,
R76). -/

namespace Sys2Proof

/-! ### The table region of a byte -/

variable {cfg : Config} {w : Window} {a : Nat} {c d : Chan}

/-- 00 R8 (b): a byte of a window is in at most one table region. -/
theorem Config.region_unique (hwf : cfg.wf = true) (hw : c.win = d.win)
    (hc : cfg.base.get c ≤ a ∧ a < cfg.regionEnd c) (hd : cfg.base.get d ≤ a ∧ a < cfg.regionEnd d) : c = d := by
  obtain ⟨hchan, hframer, hdeframer, -⟩ := Config.wf_iff.mp hwf
  have hpos (e : Chan) : 0 < cfg.regionBytes e := by
    obtain ⟨hn, -, hf, -⟩ := of_decide_eq_true (hchan e)
    exact Nat.mul_pos hn hf
  by_contra hne
  exact (Config.disjoint_all_iff hpos).mpr ⟨hframer, hdeframer⟩ c d hne hw a ⟨hc, hd⟩

theorem Config.regionAt_some (h : cfg.regionAt w a = some c) :
    c.win = w ∧ cfg.base.get c ≤ a ∧ a < cfg.regionEnd c := by
  simpa [and_assoc] using List.find?_some h

/-- The region that holds a byte is the one that `regionAt` finds. -/
theorem Config.regionAt_eq_some_iff (hwf : cfg.wf = true) :
    cfg.regionAt w a = some c ↔ c.win = w ∧ cfg.base.get c ≤ a ∧ a < cfg.regionEnd c := by
  refine ⟨Config.regionAt_some, fun ⟨hw, hc⟩ => ?_⟩
  cases hr : cfg.regionAt w a with
  | none =>
    have := List.find?_eq_none.mp hr c c.mem_list
    simp [hw, hc] at this
  | some d =>
    obtain ⟨hdw, hd⟩ := Config.regionAt_some hr
    rw [Config.region_unique hwf (hw.trans hdw.symm) hc hd]

theorem Window.not_frame_iff : (w ≠ .framer ∧ w ≠ .deframer) ↔ w = .reg ∨ w = .test := by
  cases w <;> decide

end Sys2Proof

namespace Sys2Proof.Machine

open Sys2Proof

variable {s u : State} {i : Instr} {t : Nat} {tables : PerChan Table} {w : Window}

/-! ### memCheck, case by case -/

/-- 20 R44 steps 1 and 2: the byte is not in a mapped frame window. -/
def State.OutsideFrames (s : State) (w : Window) (a : Nat) : Prop :=
  (w ≠ .framer ∧ w ≠ .deframer) ∨ s.mapped.has w = false ∨ s.cfg.winBytes w ≤ a

section
variable {a : Nat} {c : Chan}

/-- The two tests of `memCheck` that raise MEM_RANGE. -/
theorem State.outsideFrames_iff :
    s.OutsideFrames w a ↔ (w = .reg ∨ w = .test ∨ s.mapped.has w = false) ∨ s.cfg.winBytes w ≤ a := by
  rw [State.OutsideFrames, Window.not_frame_iff, or_assoc, or_assoc, or_assoc]

theorem State.memCheck_of_outside (h : s.OutsideFrames w a) :
    s.memCheck tables w a = some (.memRange, .memory w a) := by
  rw [State.outsideFrames_iff] at h
  unfold State.memCheck
  split
  · rfl
  · next hn => rw [if_pos (h.resolve_left hn)]

/-- 20 R44 step 3: the fault of a host access of byte `a` in the table region of channel `c`, if any. -/
def State.slotFault (s : State) (tables : PerChan Table) (a : Nat) (c : Chan) : Option (FaultCode × FaultInfo) :=
  let h := (a - s.cfg.base.get c) / s.cfg.frameBytes.get c
  if (tables.get c).slots[h]? ≠ some .inFlight then some (.frameOwnership, .frame c h a)
  else if s.tid ≠ s.cfg.owner.get c then some (.channelOwner, .owner c s.tid)
  else none

theorem State.memCheck_of_inside (h : ¬ s.OutsideFrames w a) :
    s.memCheck tables w a = (s.cfg.regionAt w a).bind (s.slotFault tables a) := by
  rw [State.outsideFrames_iff, not_or] at h
  obtain ⟨hframe, hin⟩ := h
  rw [State.memCheck, if_neg hframe, if_neg hin]
  cases s.cfg.regionAt w a <;> rfl

theorem State.slotFault_of_not_inFlight
    (h : (tables.get c).slots[(a - s.cfg.base.get c) / s.cfg.frameBytes.get c]? ≠ some .inFlight) :
    s.slotFault tables a c =
      some (.frameOwnership, .frame c ((a - s.cfg.base.get c) / s.cfg.frameBytes.get c) a) :=
  if_pos h

theorem State.slotFault_of_inFlight
    (h : (tables.get c).slots[(a - s.cfg.base.get c) / s.cfg.frameBytes.get c]? = some .inFlight) :
    s.slotFault tables a c =
      if s.tid ≠ s.cfg.owner.get c then some (.channelOwner, .owner c s.tid) else none :=
  if_neg (not_not.mpr h)

theorem State.MayAccess.inside (h : s.MayAccess tables t w a) : ¬ s.OutsideFrames w a := by
  obtain ⟨hframe, hmapped, hlt, -⟩ := h
  rintro (⟨hnf, hnd⟩ | hn | hle)
  · exact hframe.elim hnf hnd
  · cases hmapped.symm.trans hn
  · omega

/-- An access that 20 R44 admits raises no fault. -/
theorem State.MayAccess.memCheck_none (h : s.MayAccess tables s.tid w a) : s.memCheck tables w a = none := by
  rw [State.memCheck_of_inside h.inside]
  obtain ⟨-, -, -, hslot⟩ := h
  cases hr : s.cfg.regionAt w a with
  | none => rfl
  | some c =>
    obtain ⟨hw, hle, hlt⟩ := Config.regionAt_some hr
    obtain ⟨hflight, howner⟩ := hslot c hw hle hlt
    rw [Option.bind_some, State.slotFault_of_inFlight hflight, if_neg (not_not.mpr howner)]

end

/-! ### A step of a command at its place -/

theorem State.At.tid {p : Point} (h : s.At t i p) : s.tid = t := State.tid_of_host h.turn

theorem State.At.current {p : Point} (h : s.At t i p) : s.current = some ⟨i, p⟩ := by
  rw [State.current, h.tid, h.running]

theorem State.raised_of_host (h : s.turn = .host t) (code : FaultCode) (info : FaultInfo) :
    s.raised code info = s.faultBy t code info := by
  simp only [State.raised, State.faultBy, State.withFault, State.faultIndex, h]

/-- With the device OPEN and no CLOSE since the entry step, a later step of a command is its body. -/
theorem State.OpenAt.commandStep {p : Point} (h : s.OpenAt t i p tables) (hp : p ≠ .cut)
    (body : PerChan Table → Point → Result) : s.commandStep i body = body tables p := by
  rw [State.commandStep, h.place.current]
  simp only [↓reduceIte, if_neg hp, h.opened]

theorem State.OpenAt.simpleStep (h : s.OpenAt t i .start tables) (body : PerChan Table → Result) :
    s.simpleStep i body = body tables :=
  h.commandStep nofun _

/-- `finish` by a thread that there is ends its command. -/
theorem State.finished_running (hlt : s.tid < s.threads.length) (st : Status) (v0 v1 : Option Word64) :
    ((s.finished st v0 v1).thread s.tid).running = none := by
  rw [State.finished, State.thread_setThread_same s _ hlt]
  rfl

/-! ### MEM_RD8 and MEM_WR8 by the outcome of the check -/

section
variable {a : Word64} {code : FaultCode} {info : FaultInfo}

theorem State.checked_of_fault {α : Type} {n : Nat} (hr : s.cfg.fabricResponds = true)
    (hm : s.memCheck tables w n = some (code, info)) (k : Access α) :
    s.checked tables w n k = .refuse code info := by
  rw [State.checked, if_pos hr, hm]

theorem State.checked_of_pass {α : Type} {n : Nat} (hr : s.cfg.fabricResponds = true)
    (hm : s.memCheck tables w n = none) (k : Access α) : s.checked tables w n k = k := by
  rw [State.checked, if_pos hr, hm]

/-- A memory read of a fabric that responds is done, and takes draws only (40 R72). -/
theorem State.memRead_done (hr : s.cfg.fabricResponds = true) (w : Window) (n : Nat) :
    ∃ x u, s.DrawsOnly u ∧ s.memRead w n = .done x u := by
  rw [State.memRead, if_pos hr]
  split
  · exact ⟨_, _, s.draw_drawsOnly, rfl⟩
  · split
    · exact ⟨_, _, s.drawsOnly_refl, rfl⟩
    · exact ⟨_, _, s.draw_drawsOnly, rfl⟩

theorem execMemRd8_of_openAt (h : s.OpenAt t (.memRd8 w a) .start tables) :
    exec (.memRd8 w a) s =
      s.onAccess (s.checked tables w a.toNat (s.memRead w a.toNat)) fun x u => u.finish1 .ok (x.setWidth 64) :=
  h.simpleStep _

theorem execMemWr8_of_openAt {b : Byte} (h : s.OpenAt t (.memWr8 w a b) .start tables) :
    exec (.memWr8 w a b) s =
      s.onAccess (s.checked tables w a.toNat (s.memWrite w a.toNat b)) fun _ u => u.finish .ok :=
  h.simpleStep _

theorem exec_of_memCheck_fault (hi : i = .memRd8 w a ∨ ∃ b, i = .memWr8 w a b) (h : s.OpenAt t i .start tables)
    (hr : s.cfg.fabricResponds = true) (hm : s.memCheck tables w a.toNat = some (code, info)) :
    exec i s = .next (s.faultBy t code info) := by
  rw [← State.raised_of_host h.place.turn]
  rcases hi with rfl | ⟨b, rfl⟩
  · rw [execMemRd8_of_openAt h, State.checked_of_fault hr hm]
    rfl
  · rw [execMemWr8_of_openAt h, State.checked_of_fault hr hm]
    rfl

/-- An access that passes the check comes to the completion of its command, from a state with the faults and the host
threads of `s`. -/
theorem exec_of_memCheck_none (hi : i = .memRd8 w a ∨ ∃ b, i = .memWr8 w a b) (h : s.OpenAt t i .start tables)
    (hr : s.cfg.fabricResponds = true) (hm : s.memCheck tables w a.toNat = none) :
    ∃ u v0, exec i s = .next (u.finished .ok v0 none) ∧ s.SameHosts u ∧ u.faults = s.faults := by
  rcases hi with rfl | ⟨b, rfl⟩
  · obtain ⟨x, u, hu, hx⟩ := State.memRead_done hr w a.toNat
    rw [execMemRd8_of_openAt h, State.checked_of_pass hr hm, hx]
    exact ⟨u, _, rfl, hu.sameHosts, by rw [hu]⟩
  · rw [execMemWr8_of_openAt h, State.checked_of_pass hr hm, State.memWrite, if_pos hr]
    exact ⟨s.storeByte w a.toNat b, none, rfl, ⟨rfl, rfl, rfl⟩, rfl⟩

end

/-- Settles O27: each clause is an outcome of `State.memCheck`, in the order of its checks. -/
theorem frameAccessChecks : Obligations.FrameAccessChecks := by
  unfold Obligations.FrameAccessChecks
  intro s t i w a tables hi h hr hwf outside
  have htid := h.place.tid
  have hfault {code info} := exec_of_memCheck_fault (code := code) (info := info) hi h hr
  refine ⟨fun hout => hfault (State.memCheck_of_outside hout), ?_, fun hmay => ?_⟩
  · intro hin c hw hle hlt n
    have hcheck : s.memCheck tables w a.toNat = s.slotFault tables a.toNat c := by
      rw [State.memCheck_of_inside hin, (Config.regionAt_eq_some_iff hwf).mpr ⟨hw, hle, hlt⟩, Option.bind_some]
    constructor
    · intro hslot
      exact hfault (hcheck.trans (State.slotFault_of_not_inFlight hslot))
    · intro hslot howner
      rw [State.slotFault_of_inFlight hslot, htid, if_pos howner] at hcheck
      exact hfault hcheck
  · rw [← htid] at hmay
    obtain ⟨u, v0, he, hu, hf⟩ := exec_of_memCheck_none hi h hr hmay.memCheck_none
    have hut : u.tid = t := hu.tid.trans htid
    refine ⟨_, he, hf, ?_⟩
    rw [← hut]
    exact u.finished_running (by rw [hut, hu.threads]; exact h.place.exists_thread) _ _ _

end Sys2Proof.Machine
end

section
/-! PROOFS. The command encoding (spec 30 R58 to R62): a word by its fields, the rows of the opcode table by their opcodes
and the bits that they leave free, the decoder by its row, and the two round trips. -/

namespace Sys2Proof

variable {w v : CmdWord} {r : OpRow} {i : Instr}

/-! ### A command word is its five fields (30 R58) -/

theorem append_fields (w : CmdWord) : fieldOp w ++ fieldCh w ++ fieldA w ++ fieldZ w ++ fieldB w = w := by
  unfold fieldOp fieldCh fieldA fieldZ fieldB
  have join {hi lo k n : Nat} (h : hi = lo + n) :
      w.extractLsb' hi k ++ w.extractLsb' lo n = w.extractLsb' lo (k + n) :=
    BitVec.extractLsb'_append_extractLsb'_eq_extractLsb' h
  rw [join (by rfl), join (by rfl), join (by rfl), join (by rfl)]
  exact BitVec.extractLsb'_eq_self

/-- Two words with the same fields are the same word. -/
theorem word_eq_iff : w = v ↔ fieldOp w = fieldOp v ∧ fieldCh w = fieldCh v ∧ fieldA w = fieldA v ∧
    fieldZ w = fieldZ v ∧ fieldB w = fieldB v := by
  constructor
  · rintro rfl
    exact ⟨rfl, rfl, rfl, rfl, rfl⟩
  · rintro ⟨hop, hch, ha, hz, hb⟩
    rw [← append_fields w, hop, hch, ha, hz, hb, append_fields v]

/-- Match and mask, field by field. -/
theorem OpRow.matches_iff_fields : r.matches w = true ↔
    fieldOp w &&& fieldOp r.mask = fieldOp r.pattern ∧ fieldCh w &&& fieldCh r.mask = fieldCh r.pattern ∧
    fieldA w &&& fieldA r.mask = fieldA r.pattern ∧ fieldZ w &&& fieldZ r.mask = fieldZ r.pattern ∧
    fieldB w &&& fieldB r.mask = fieldB r.pattern := by
  have field_and {start len : Nat} :
      (w &&& r.mask).extractLsb' start len = w.extractLsb' start len &&& r.mask.extractLsb' start len :=
    BitVec.extractLsb'_and
  rw [OpRow.matches, beq_iff_eq, word_eq_iff]
  simp only [fieldOp, fieldCh, fieldA, fieldZ, fieldB, field_and]

/-- A mask that leaves the low `k` bits of a field free. -/
theorem and_shiftLeft_allOnes_eq_zero {n k : Nat} {x : BitVec n} :
    x &&& BitVec.allOnes n <<< k = 0 ↔ x.toNat < 2 ^ k := by
  rw [← BitVec.shiftLeft_ushiftRight, ← BitVec.toNat_inj, BitVec.toNat_shiftLeft, BitVec.toNat_ushiftRight,
    Nat.shiftLeft_eq, Nat.shiftRight_eq_div_pow,
    Nat.mod_eq_of_lt ((Nat.div_mul_le_self ..).trans_lt x.isLt), BitVec.ofNat_eq_ofNat, BitVec.toNat_zero,
    Nat.mul_eq_zero, Nat.div_eq_zero_iff]
  have := Nat.two_pow_pos k
  omega

/-! ### The opcode table by its opcodes (30 R60, R61) -/

/-- The opcodes of 30 R60. -/
def opcodes : List (BitVec 8) :=
  [0x01, 0x02, 0x03, 0x04, 0x10, 0x11, 0x20, 0x21, 0x22, 0x23, 0x24, 0x25, 0x26, 0x30, 0x31, 0x32, 0x33, 0x38, 0x40, 0x41]

/-- The opcodes that 30 R60 marks "0" in CH. -/
def zeroChOpcodes : List (BitVec 8) := [0x01, 0x02, 0x10, 0x11, 0x40, 0x41]

/-- The opcodes that 30 R60 marks "0" in A. -/
def zeroAOpcodes : List (BitVec 8) := [0x03, 0x11, 0x20, 0x21, 0x23, 0x26, 0x30, 0x31, 0x38, 0x40, 0x41]

/-- The opcodes that 30 R60 marks "0" in B. -/
def zeroBOpcodes : List (BitVec 8) := [0x01, 0x11, 0x20, 0x21, 0x22, 0x24, 0x25, 0x26, 0x31, 0x33, 0x38, 0x40]

/-- The opcodes whose CH is a channel. -/
def channelOpcodes : List (BitVec 8) := [0x20, 0x21, 0x22, 0x23, 0x24, 0x25, 0x26, 0x30, 0x31, 0x32, 0x33, 0x38]

/-- The opcodes whose CH is a window: MEM_RD8 and MEM_WR8. -/
def memoryOpcodes : List (BitVec 8) := [0x03, 0x04]

theorem opcodeTable_opcodes : opcodeTable.map (fun r => fieldOp r.pattern) = opcodes := by decide

theorem fieldOp_mem_opcodes (h : r ∈ opcodeTable) : fieldOp r.pattern ∈ opcodes := by
  rw [← opcodeTable_opcodes]
  exact List.mem_map_of_mem h

/-- A row is known by its opcode. -/
theorem row_eq_of_fieldOp_eq {q : OpRow} (hr : r ∈ opcodeTable) (hq : q ∈ opcodeTable)
    (h : fieldOp r.pattern = fieldOp q.pattern) : r = q :=
  List.inj_on_of_nodup_map (opcodeTable_opcodes ▸ (by decide : opcodes.Nodup)) hr hq h

/-- Looking a row up by its opcode. -/
theorem row_of_find? {op : BitVec 8} (h : (opcodeTable.find? fun q => fieldOp q.pattern == op) = some r) :
    r ∈ opcodeTable ∧ fieldOp r.pattern = op :=
  ⟨List.mem_of_find?_eq_some h, by simpa using List.find?_some h⟩

theorem exists_row_of_find? {op : BitVec 8} (h : (opcodeTable.find? fun q => fieldOp q.pattern == op) = some r)
    (hb : r.build w = some i) : ∃ r ∈ opcodeTable, fieldOp r.pattern = op ∧ r.build w = some i :=
  ⟨r, (row_of_find? h).1, (row_of_find? h).2, hb⟩

theorem eq_of_find? {op : BitVec 8} {q : OpRow} (h : (opcodeTable.find? fun q => fieldOp q.pattern == op) = some q)
    (hr : r ∈ opcodeTable) (hop : fieldOp r.pattern = op) : r = q :=
  row_eq_of_fieldOp_eq hr (row_of_find? h).1 (hop.trans (row_of_find? h).2.symm)

/-- The match of every row holds its opcode, and 0 in every other field. -/
theorem pattern_fields : ∀ r ∈ opcodeTable,
    fieldCh r.pattern = 0 ∧ fieldA r.pattern = 0 ∧ fieldZ r.pattern = 0 ∧ fieldB r.pattern = 0 := by decide

/-- The bits of CH that the row of opcode `op` leaves free: none where 30 R60 marks the field 0, else CH[1:0]. -/
def freeCh (op : BitVec 8) : Nat := if op ∈ zeroChOpcodes then 0 else 2

/-- The bits of A that the row of opcode `op` leaves free: none where 30 R60 marks the field 0, A[7:0] in MEM_WR8. -/
def freeA (op : BitVec 8) : Nat := if op ∈ zeroAOpcodes then 0 else if op = 0x04 then 8 else 16

/-- The bits of B that the row of opcode `op` leaves free: none where 30 R60 marks the field 0. -/
def freeB (op : BitVec 8) : Nat := if op ∈ zeroBOpcodes then 0 else 64

/-- Every row's mask covers OP, Z, and what of CH, A and B is not free. -/
theorem mask_fields : ∀ r ∈ opcodeTable,
    fieldOp r.mask = BitVec.allOnes 8 ∧ fieldZ r.mask = BitVec.allOnes 32 ∧
    fieldCh r.mask = BitVec.allOnes 8 <<< freeCh (fieldOp r.pattern) ∧
    fieldA r.mask = BitVec.allOnes 16 <<< freeA (fieldOp r.pattern) ∧
    fieldB r.mask = BitVec.allOnes 64 <<< freeB (fieldOp r.pattern) := by decide

/-- The fields of `w` are 0 outside the bits that the row of its opcode leaves free. -/
structure FieldsFit (w : CmdWord) : Prop where
  z : fieldZ w = 0
  ch : (fieldCh w).toNat < 2 ^ freeCh (fieldOp w)
  a : (fieldA w).toNat < 2 ^ freeA (fieldOp w)
  b : (fieldB w).toNat < 2 ^ freeB (fieldOp w)

/-- Match and mask, by the opcode and the free bits. -/
theorem OpRow.matches_iff (hr : r ∈ opcodeTable) :
    r.matches w = true ↔ fieldOp w = fieldOp r.pattern ∧ FieldsFit w := by
  obtain ⟨mop, mz, mch, ma, mb⟩ := mask_fields r hr
  obtain ⟨pch, pa, pz, pb⟩ := pattern_fields r hr
  rw [OpRow.matches_iff_fields, mop, mz, mch, ma, mb, pch, pa, pz, pb, BitVec.and_allOnes, BitVec.and_allOnes,
    and_shiftLeft_allOnes_eq_zero, and_shiftLeft_allOnes_eq_zero, and_shiftLeft_allOnes_eq_zero]
  refine and_congr_right fun hop => ?_
  rw [← hop]
  exact ⟨fun ⟨hch, ha, hz, hb⟩ => ⟨hz, hch, ha, hb⟩, fun h => ⟨h.ch, h.a, h.z, h.b⟩⟩

theorem fieldOp_mem_of_matches (hr : r ∈ opcodeTable) (hrw : r.matches w = true) : fieldOp w ∈ opcodes := by
  rw [((OpRow.matches_iff hr).mp hrw).1]
  exact fieldOp_mem_opcodes hr

/-! ### The decoder by its row (30 R61) -/

/-- At most one row matches: OP is masked whole in every row. -/
theorem row_eq_of_matches {q : OpRow} (hr : r ∈ opcodeTable) (hq : q ∈ opcodeTable) (hrw : r.matches w = true)
    (hqw : q.matches w = true) : r = q := by
  have hop := ((OpRow.matches_iff hr).mp hrw).1
  rw [((OpRow.matches_iff hq).mp hqw).1] at hop
  exact (row_eq_of_fieldOp_eq hq hr hop).symm

theorem find?_matches (hr : r ∈ opcodeTable) (hrw : r.matches w = true) :
    (opcodeTable.find? fun q => q.matches w) = some r := by
  have hsome : (opcodeTable.find? fun q => q.matches w).isSome := List.find?_isSome.mpr ⟨r, hr, hrw⟩
  obtain ⟨q, hq⟩ := Option.isSome_iff_exists.mp hsome
  have hqw : q.matches w = true := List.find?_some (p := fun q => OpRow.matches q w) hq
  rw [hq, row_eq_of_matches (List.mem_of_find?_eq_some hq) hr hqw hrw]

/-- A word that no row matches decodes to no command. -/
theorem decode_of_no_row (h : ∀ r ∈ opcodeTable, r.matches w = false) : decode w = .error (illegalReason w) := by
  rw [decode, List.find?_eq_none.mpr fun r hr => by simp [h r hr]]

theorem decode_of_build (hr : r ∈ opcodeTable) (hrw : r.matches w = true) (hb : r.build w = some i) :
    decode w = .ok i := by
  rw [decode, find?_matches hr hrw]
  simp only [hb]

theorem decode_of_no_build (hr : r ∈ opcodeTable) (hrw : r.matches w = true) (hb : r.build w = none) :
    decode w = .error .windowOutOfRange := by
  rw [decode, find?_matches hr hrw]
  simp only [hb]

/-- A word decodes to a command exactly when the row that matches it makes that command of its fields. -/
theorem decode_eq_ok_iff : decode w = .ok i ↔ ∃ r ∈ opcodeTable, r.matches w = true ∧ r.build w = some i := by
  constructor
  · intro h
    by_cases hw : ∀ r ∈ opcodeTable, r.matches w = false
    · rw [decode_of_no_row hw] at h
      cases h
    · simp only [not_forall, Bool.not_eq_false] at hw
      obtain ⟨r, hr, hrw⟩ := hw
      cases hb : r.build w with
      | none =>
        rw [decode_of_no_build hr hrw hb] at h
        cases h
      | some j =>
        rw [decode_of_build hr hrw hb] at h
        cases h
        exact ⟨r, hr, hrw, hb⟩
  · rintro ⟨r, hr, hrw, hb⟩
    exact decode_of_build hr hrw hb

/-! ### Encode, then decode -/

theorem Chan.field_toNat_lt (c : Chan) : c.field.toNat < 2 ^ 2 := by cases c <;> decide

theorem Window.field_toNat_lt (win : Window) : win.field.toNat < 2 ^ 2 := by cases win <;> decide

theorem fieldOp_encode (i : Instr) : fieldOp (encode i) = i.opcode := by cases i <;> exact fieldOp_packWord ..

/-- The byte operand of MEM_WR8 is read back from A[7:0]. -/
theorem extractLsb'_setWidth_byte (b : Byte) : (b.setWidth 16).extractLsb' 0 8 = b := by
  rw [BitVec.extractLsb'_setWidth_of_le (by decide), BitVec.extractLsb'_eq_self]

/-- The byte operand of MEM_WR8 keeps A[15:8] at 0. -/
theorem setWidth_byte_toNat_lt (b : Byte) : (b.setWidth 16).toNat < 2 ^ 8 := by
  rw [BitVec.toNat_setWidth_of_le (by decide)]
  exact b.isLt

/-- A field that holds 0 fits whatever bits are free. -/
theorem zero_toNat_lt {n k : Nat} : (0 : BitVec n).toNat < 2 ^ k := by simp

theorem fieldsFit_packWord {op ch : BitVec 8} {a : Half} {b : Word64} (hch : ch.toNat < 2 ^ freeCh op)
    (ha : a.toNat < 2 ^ freeA op) (hb : b.toNat < 2 ^ freeB op) : FieldsFit (packWord op ch a b) := by
  constructor
  · rw [fieldZ_packWord]
  · rwa [fieldOp_packWord, fieldCh_packWord]
  · rwa [fieldOp_packWord, fieldA_packWord]
  · rwa [fieldOp_packWord, fieldB_packWord]

/-- Every operand of a command lies within the bits that its row leaves free. -/
theorem fieldsFit_encode (i : Instr) : FieldsFit (encode i) :=
  match i with
  | .regRd off => fieldsFit_packWord zero_toNat_lt off.isLt zero_toNat_lt
  | .regWr off v => fieldsFit_packWord zero_toNat_lt off.isLt v.isLt
  | .memRd8 win a => fieldsFit_packWord win.field_toNat_lt zero_toNat_lt a.isLt
  | .memWr8 win a b => fieldsFit_packWord win.field_toNat_lt (setWidth_byte_toNat_lt b) a.isLt
  | .openDev hash seed => fieldsFit_packWord zero_toNat_lt seed.isLt hash.isLt
  | .closeDev => fieldsFit_packWord zero_toNat_lt zero_toNat_lt zero_toNat_lt
  | .tblNumAvail c => fieldsFit_packWord c.field_toNat_lt zero_toNat_lt zero_toNat_lt
  | .tblAcqHead c => fieldsFit_packWord c.field_toNat_lt zero_toNat_lt zero_toNat_lt
  | .tblMarkRel c h => fieldsFit_packWord c.field_toNat_lt h.isLt zero_toNat_lt
  | .tblMarkTail c n => fieldsFit_packWord c.field_toNat_lt zero_toNat_lt n.isLt
  | .tblOffset c h => fieldsFit_packWord c.field_toNat_lt h.isLt zero_toNat_lt
  | .tblBuff c h => fieldsFit_packWord c.field_toNat_lt h.isLt zero_toNat_lt
  | .tblBpf c => fieldsFit_packWord c.field_toNat_lt zero_toNat_lt zero_toNat_lt
  | .chAcquire c us => fieldsFit_packWord c.field_toNat_lt zero_toNat_lt us.isLt
  | .chTryAcquire c => fieldsFit_packWord c.field_toNat_lt zero_toNat_lt zero_toNat_lt
  | .chRelease c h n => fieldsFit_packWord c.field_toNat_lt h.isLt n.isLt
  | .chBuffer c h => fieldsFit_packWord c.field_toNat_lt h.isLt zero_toNat_lt
  | .pollDrain c => fieldsFit_packWord c.field_toNat_lt zero_toNat_lt zero_toNat_lt
  | .clkGet => fieldsFit_packWord zero_toNat_lt zero_toNat_lt zero_toNat_lt
  | .clkSet ns => fieldsFit_packWord zero_toNat_lt zero_toNat_lt ns.isLt

/-- The row of a command's opcode reads the command back from its word. -/
theorem exists_row_encode (h : i.wellFormed = true) :
    ∃ r ∈ opcodeTable, fieldOp r.pattern = i.opcode ∧ r.build (encode i) = some i := by
  cases i with
  | memRd8 win a => exact exists_row_of_find? rfl (by simp [encode, windowOfField_field h])
  | memWr8 win a b =>
    exact exists_row_of_find? rfl (by simp [encode, windowOfField_field h, extractLsb'_setWidth_byte])
  | _ => exact exists_row_of_find? rfl (by simp [encode])

theorem decode_encode (h : i.wellFormed = true) : decode (encode i) = .ok i := by
  obtain ⟨r, hr, hop, hb⟩ := exists_row_encode h
  exact decode_of_build hr ((OpRow.matches_iff hr).mpr ⟨(fieldOp_encode i).trans hop.symm, fieldsFit_encode i⟩) hb

/-- Settles O1: the word of a command has the opcode of the command's row and operands within the row's free bits, so the
row matches it, and the row reads each operand back from the field that `encode` put it in. -/
theorem decodeOfEncode : Obligations.DecodeOfEncode := by
  unfold Obligations.DecodeOfEncode
  intro i h
  exact decode_encode h

theorem decode_of_encode_eq (h : i.wellFormed = true) (hw : encode i = w) : decode w = .ok i := hw ▸ decode_encode h

/-- Settles O5: each word is the encoding of its command. -/
theorem sampleWordsDecode : Obligations.SampleWordsDecode := by
  unfold Obligations.SampleWordsDecode
  refine ⟨?_, ?_, ?_, ?_, ?_, ?_, ?_, ?_⟩ <;> exact decode_of_encode_eq rfl (by decide)

/-! ### Decode, then encode (30 R61, R62) -/

/-- The words that 30 R61 decodes to a command: the opcode is one of the table, the fields are 0 outside the free bits of
its row, and CH of a memory command is not 3. -/
structure LegalWord (w : CmdWord) : Prop where
  op : fieldOp w ∈ opcodes
  fit : FieldsFit w
  window : fieldOp w ∈ memoryOpcodes → fieldCh w ≠ 3

theorem packWord_eq {op ch : BitVec 8} {a : Half} {b : Word64} (hz : fieldZ w = 0) (hop : fieldOp w = op)
    (hch : ch = fieldCh w) (ha : a = fieldA w) (hb : b = fieldB w) : packWord op ch a b = w := by
  rw [word_eq_iff, fieldOp_packWord, fieldCh_packWord, fieldA_packWord, fieldZ_packWord, fieldB_packWord]
  exact ⟨hop.symm, hch, ha, hz.symm, hb⟩

/-- A field without free bits is 0. -/
theorem toNat_lt_two_pow_zero_iff {n : Nat} {x : BitVec n} : x.toNat < 2 ^ 0 ↔ x = 0 := by
  rw [pow_zero, Nat.lt_one_iff, ← BitVec.toNat_inj, BitVec.ofNat_eq_ofNat, BitVec.toNat_zero]

theorem zero_eq_of_no_free {n : Nat} {x : BitVec n} (h : x.toNat < 2 ^ 0) : 0 = x :=
  (toNat_lt_two_pow_zero_iff.mp h).symm

theorem field_chanOfField : ∀ {ch : BitVec 8}, ch.toNat < 2 ^ 2 → (chanOfField ch).field = ch := by decide

/-- A window operand other than 3 is the number of a memory window (30 R59). -/
theorem exists_window {ch : BitVec 8} (h : ch.toNat < 2 ^ 2) (h3 : ch ≠ 3) :
    ∃ win : Window, win.isMemory = true ∧ win.field = ch := by
  have cases_of_lt : ∀ ch : BitVec 8, ch.toNat < 2 ^ 2 → ch ≠ 3 → ch = 0 ∨ ch = 1 ∨ ch = 2 := by decide
  rcases cases_of_lt ch h h3 with rfl | rfl | rfl
  · exact ⟨.framer, rfl, rfl⟩
  · exact ⟨.deframer, rfl, rfl⟩
  · exact ⟨.test, rfl, rfl⟩

theorem setWidth_lowByte {a : Half} (h : a.toNat < 2 ^ 8) : (a.extractLsb' 0 8).setWidth 16 = a := by
  apply BitVec.eq_of_toNat_eq
  rw [BitVec.toNat_setWidth_of_le (by decide), BitVec.extractLsb'_toNat, Nat.shiftRight_zero, Nat.mod_eq_of_lt h]

/-- For each opcode, the command that a legal word stands for. -/
theorem LegalWord.exists_encode_eq (h : LegalWord w) : ∃ i : Instr, i.wellFormed = true ∧ encode i = w := by
  obtain ⟨hop, ⟨hz, hch, ha, hb⟩, hwin⟩ := h
  generalize hw : fieldOp w = op at *
  have window (hop : op ∈ memoryOpcodes) (hch : (fieldCh w).toNat < 2 ^ 2) := exists_window hch (hwin hop)
  simp only [opcodes, List.mem_cons, List.not_mem_nil, or_false] at hop
  rcases hop with rfl | rfl | rfl | rfl | rfl | rfl | rfl | rfl | rfl | rfl | rfl | rfl | rfl | rfl | rfl | rfl | rfl |
    rfl | rfl | rfl
  · exact ⟨.regRd (fieldA w), rfl, packWord_eq hz hw (zero_eq_of_no_free hch) rfl (zero_eq_of_no_free hb)⟩
  · exact ⟨.regWr (fieldA w) (fieldB w), rfl, packWord_eq hz hw (zero_eq_of_no_free hch) rfl rfl⟩
  · obtain ⟨win, hm, hf⟩ := window (by decide) hch
    exact ⟨.memRd8 win (fieldB w), hm, packWord_eq hz hw hf (zero_eq_of_no_free ha) rfl⟩
  · obtain ⟨win, hm, hf⟩ := window (by decide) hch
    exact ⟨.memWr8 win (fieldB w) ((fieldA w).extractLsb' 0 8), hm, packWord_eq hz hw hf (setWidth_lowByte ha) rfl⟩
  · exact ⟨.openDev (fieldB w) (fieldA w), rfl, packWord_eq hz hw (zero_eq_of_no_free hch) rfl rfl⟩
  · exact ⟨.closeDev, rfl,
      packWord_eq hz hw (zero_eq_of_no_free hch) (zero_eq_of_no_free ha) (zero_eq_of_no_free hb)⟩
  · exact ⟨.tblNumAvail (chanOfField (fieldCh w)), rfl,
      packWord_eq hz hw (field_chanOfField hch) (zero_eq_of_no_free ha) (zero_eq_of_no_free hb)⟩
  · exact ⟨.tblAcqHead (chanOfField (fieldCh w)), rfl,
      packWord_eq hz hw (field_chanOfField hch) (zero_eq_of_no_free ha) (zero_eq_of_no_free hb)⟩
  · exact ⟨.tblMarkRel (chanOfField (fieldCh w)) (fieldA w), rfl,
      packWord_eq hz hw (field_chanOfField hch) rfl (zero_eq_of_no_free hb)⟩
  · exact ⟨.tblMarkTail (chanOfField (fieldCh w)) (fieldB w), rfl,
      packWord_eq hz hw (field_chanOfField hch) (zero_eq_of_no_free ha) rfl⟩
  · exact ⟨.tblOffset (chanOfField (fieldCh w)) (fieldA w), rfl,
      packWord_eq hz hw (field_chanOfField hch) rfl (zero_eq_of_no_free hb)⟩
  · exact ⟨.tblBuff (chanOfField (fieldCh w)) (fieldA w), rfl,
      packWord_eq hz hw (field_chanOfField hch) rfl (zero_eq_of_no_free hb)⟩
  · exact ⟨.tblBpf (chanOfField (fieldCh w)), rfl,
      packWord_eq hz hw (field_chanOfField hch) (zero_eq_of_no_free ha) (zero_eq_of_no_free hb)⟩
  · exact ⟨.chAcquire (chanOfField (fieldCh w)) (fieldB w), rfl,
      packWord_eq hz hw (field_chanOfField hch) (zero_eq_of_no_free ha) rfl⟩
  · exact ⟨.chTryAcquire (chanOfField (fieldCh w)), rfl,
      packWord_eq hz hw (field_chanOfField hch) (zero_eq_of_no_free ha) (zero_eq_of_no_free hb)⟩
  · exact ⟨.chRelease (chanOfField (fieldCh w)) (fieldA w) (fieldB w), rfl,
      packWord_eq hz hw (field_chanOfField hch) rfl rfl⟩
  · exact ⟨.chBuffer (chanOfField (fieldCh w)) (fieldA w), rfl,
      packWord_eq hz hw (field_chanOfField hch) rfl (zero_eq_of_no_free hb)⟩
  · exact ⟨.pollDrain (chanOfField (fieldCh w)), rfl,
      packWord_eq hz hw (field_chanOfField hch) (zero_eq_of_no_free ha) (zero_eq_of_no_free hb)⟩
  · exact ⟨.clkGet, rfl,
      packWord_eq hz hw (zero_eq_of_no_free hch) (zero_eq_of_no_free ha) (zero_eq_of_no_free hb)⟩
  · exact ⟨.clkSet (fieldB w), rfl, packWord_eq hz hw (zero_eq_of_no_free hch) (zero_eq_of_no_free ha) rfl⟩

theorem LegalWord.exists_decode (h : LegalWord w) : ∃ i, decode w = .ok i := by
  obtain ⟨i, hwf, hw⟩ := h.exists_encode_eq
  exact ⟨i, decode_of_encode_eq hwf hw⟩

/-- With CH = 3 a memory row makes no command: the row is the one of its opcode, and the window operand 3 is none. -/
theorem build_eq_none (hr : r ∈ opcodeTable) (hop : fieldOp r.pattern ∈ memoryOpcodes) (hch : fieldCh w = 3) :
    r.build w = none := by
  have hwin : windowOfField (fieldCh w) = none := by rw [hch]; rfl
  rcases List.mem_pair.mp hop with hop | hop
  all_goals
    rw [eq_of_find? rfl hr hop]
    exact Option.map_eq_none_iff.mpr hwin

theorem legalWord_of_decode (h : decode w = .ok i) : LegalWord w := by
  obtain ⟨r, hr, hrw, hb⟩ := decode_eq_ok_iff.mp h
  obtain ⟨hop, hfit⟩ := (OpRow.matches_iff hr).mp hrw
  refine ⟨fieldOp_mem_of_matches hr hrw, hfit, fun hmem hch => ?_⟩
  rw [hop] at hmem
  rw [build_eq_none hr hmem hch] at hb
  cases hb

/-- Settles O2: a word that decodes is legal, so it is the encoding of some command; decoding that encoding gives the
command back, so it is the one decoded. -/
theorem encodeOfDecode : Obligations.EncodeOfDecode := by
  unfold Obligations.EncodeOfDecode
  intro w i h
  obtain ⟨j, hwf, hw⟩ := (legalWord_of_decode h).exists_encode_eq
  rw [decode_of_encode_eq hwf hw] at h
  cases h
  exact ⟨hwf, hw⟩

/-! ### The legal words in the words of 30 R61 and R62 -/

theorem mnemonic_iff : ∀ r ∈ opcodeTable,
    (r.mnemonic = "MEM_RD8" ∨ r.mnemonic = "MEM_WR8") ↔ fieldOp r.pattern ∈ memoryOpcodes := by decide

/-- A word that a row matches is legal but for CH = 3 of a memory row. -/
theorem legalWord_iff_of_matches (hr : r ∈ opcodeTable) (hrw : r.matches w = true) :
    LegalWord w ↔ ¬ ((r.mnemonic = "MEM_RD8" ∨ r.mnemonic = "MEM_WR8") ∧ fieldCh w = 3) := by
  obtain ⟨hop, hfit⟩ := (OpRow.matches_iff hr).mp hrw
  rw [mnemonic_iff r hr, ← hop, not_and]
  exact ⟨fun h => h.window, fun h => ⟨fieldOp_mem_of_matches hr hrw, hfit, h⟩⟩

/-- The command of a legal word is the one that its row makes. -/
theorem LegalWord.exists_build (h : LegalWord w) (hr : r ∈ opcodeTable) (hrw : r.matches w = true) :
    ∃ i, r.build w = some i ∧ decode w = .ok i := by
  obtain ⟨i, hd⟩ := h.exists_decode
  obtain ⟨q, hq, hqw, hb⟩ := decode_eq_ok_iff.mp hd
  rw [row_eq_of_matches hq hr hqw hrw] at hb
  exact ⟨i, hb, hd⟩

/-- The reserved encodings as 30 R62 lists them, with the fields that 30 R60 marks 0. -/
def Reserved (w : CmdWord) : Prop :=
  fieldOp w ∉ opcodes ∨ fieldZ w ≠ 0 ∨ (fieldOp w ∈ zeroChOpcodes ∧ fieldCh w ≠ 0) ∨
    (fieldOp w ∈ zeroAOpcodes ∧ fieldA w ≠ 0) ∨ (fieldOp w ∈ zeroBOpcodes ∧ fieldB w ≠ 0) ∨
    (fieldOp w ∈ channelOpcodes ∧ 4 ≤ (fieldCh w).toNat) ∨ (fieldOp w ∈ memoryOpcodes ∧ 3 ≤ (fieldCh w).toNat) ∨
    (fieldOp w = 0x04 ∧ 256 ≤ (fieldA w).toNat)

/-- CH of every opcode is marked 0, or a channel, or a window. -/
theorem ch_use : ∀ op ∈ opcodes,
    (op ∈ zeroChOpcodes ∧ op ∉ channelOpcodes ∧ op ∉ memoryOpcodes) ∨
    (op ∉ zeroChOpcodes ∧ op ∈ channelOpcodes ∧ op ∉ memoryOpcodes) ∨
    (op ∉ zeroChOpcodes ∧ op ∉ channelOpcodes ∧ op ∈ memoryOpcodes) := by decide

/-! CH, A and B of a legal word, each by the items of 30 R62 that speak of it. -/

theorem ch_legal_iff {op ch : BitVec 8} (h : op ∈ opcodes) :
    (ch.toNat < 2 ^ freeCh op ∧ (op ∈ memoryOpcodes → ch ≠ 3)) ↔
      ¬ (op ∈ zeroChOpcodes ∧ ch ≠ 0) ∧ ¬ (op ∈ channelOpcodes ∧ 4 ≤ ch.toNat) ∧
      ¬ (op ∈ memoryOpcodes ∧ 3 ≤ ch.toNat) := by
  rcases ch_use op h with ⟨hz, hc, hm⟩ | ⟨hz, hc, hm⟩ | ⟨hz, hc, hm⟩
  · rw [freeCh, if_pos hz, toNat_lt_two_pow_zero_iff]
    simp [hz, hc, hm]
  · rw [freeCh, if_neg hz]
    simp [hz, hc, hm]
  · have h3 : ch = 3#8 ↔ ch.toNat = 3 := BitVec.toNat_inj.symm
    rw [freeCh, if_neg hz]
    simp [hz, hc, hm, h3]
    omega

theorem a_legal_iff {op : BitVec 8} {a : Half} :
    a.toNat < 2 ^ freeA op ↔ ¬ (op ∈ zeroAOpcodes ∧ a ≠ 0) ∧ ¬ (op = 0x04 ∧ 256 ≤ a.toNat) := by
  by_cases hz : op ∈ zeroAOpcodes
  · have hne : op ≠ 0x04#8 := by rintro rfl; exact absurd hz (by decide)
    rw [freeA, if_pos hz, toNat_lt_two_pow_zero_iff]
    simp [hz, hne]
  · by_cases hop : op = 0x04#8
    · subst hop
      simp [freeA, hz]
    · simp [freeA, hz, hop, a.isLt]

theorem b_legal_iff {op : BitVec 8} {b : Word64} :
    b.toNat < 2 ^ freeB op ↔ ¬ (op ∈ zeroBOpcodes ∧ b ≠ 0) := by
  unfold freeB
  split
  · next hz =>
    rw [toNat_lt_two_pow_zero_iff]
    simp [hz]
  · next hz => simp [hz, b.isLt]

theorem legalWord_iff_not_reserved : LegalWord w ↔ ¬ Reserved w := by
  simp only [Reserved, not_or, not_not]
  constructor
  · rintro ⟨hop, ⟨hz, hch, ha, hb⟩, hwin⟩
    obtain ⟨hz0, hc, hm⟩ := (ch_legal_iff hop).mp ⟨hch, hwin⟩
    obtain ⟨ha0, ha8⟩ := a_legal_iff.mp ha
    exact ⟨hop, hz, hz0, ha0, b_legal_iff.mp hb, hc, hm, ha8⟩
  · rintro ⟨hop, hz, hz0, ha0, hb0, hc, hm, ha8⟩
    obtain ⟨hch, hwin⟩ := (ch_legal_iff hop).mpr ⟨hz0, hc, hm⟩
    exact ⟨hop, ⟨hz, hch, a_legal_iff.mpr ⟨ha0, ha8⟩, b_legal_iff.mpr hb0⟩, hwin⟩

end Sys2Proof

namespace Sys2Proof.Machine

open Sys2Proof

variable {s : State} {t : Nat} {w : CmdWord}

/-! ### The step that fetches an illegal word (30 R61, 60 R121) -/

theorem Thread.fetch_of_illegal {th : Thread} {e : Illegal} (h : th.running = none) (hw : th.stream[th.cp]? = some w)
    (hd : decode w = .error e) : th.fetch = .illegal w := by
  rw [Thread.fetch, h, hw]
  simp only [hd]

theorem hostStep_of_illegal (h : s.fetch t = .illegal w) : hostStep t s = s.raise .illegalCommand (.word w) := by
  rw [hostStep, h]

theorem State.schedule_of_faults (h : s.faults ≠ []) : s.schedule = s := by
  rw [State.schedule, if_pos h]

theorem illegalWord_of_error {e : Illegal} (hd : decode w = .error e) : IllegalWord w := by
  refine ⟨⟨e, hd⟩, fun s t hidle hf hc hw => ?_⟩
  have hfetch : s.fetch t = .illegal w := by
    rw [State.fetch_eq hidle.exists_thread, Thread.fetch_of_illegal hidle.idle hw hd]
  rw [step_eq hf hc, agentStep_of_host hidle.turn, hostStep_of_illegal hfetch, State.raise,
    State.raised_of_host hidle.turn, andThen, State.schedule_of_faults]
  exact List.append_ne_nil_of_right_ne_nil _ (List.cons_ne_nil _ _)

theorem illegalWord_of_not_legal (h : ¬ LegalWord w) : IllegalWord w := by
  cases hd : decode w with
  | error e => exact illegalWord_of_error hd
  | ok i => exact absurd (legalWord_of_decode hd) h

/-- Settles O3: OP alone picks the row, and of the words that a row matches those with CH = 3 in a memory row are the ones
that are not legal. -/
theorem decodeFollowsTheTable : Obligations.DecodeFollowsTheTable := by
  unfold Obligations.DecodeFollowsTheTable
  intro w
  refine ⟨fun r hr q hq hrw hqw => ?_, fun r hr hrw hwin => ?_, fun h => illegalWord_of_not_legal fun hlegal => ?_⟩
  · rw [row_eq_of_matches hr hq hrw hqw]
  · exact ((legalWord_iff_of_matches hr hrw).mpr hwin).exists_build hr hrw
  · rcases h with hnone | ⟨r, hr, hrw, hwin⟩
    · obtain ⟨i, hd⟩ := hlegal.exists_decode
      obtain ⟨r, hr, hrw, -⟩ := decode_eq_ok_iff.mp hd
      rw [hnone r hr] at hrw
      cases hrw
    · exact (legalWord_iff_of_matches hr hrw).mp hlegal hwin

/-- Settles O4: the legal words are those that 30 R62 does not reserve. -/
theorem reservedEncodings : Obligations.ReservedEncodings := by
  unfold Obligations.ReservedEncodings
  intro w
  have hlegal := legalWord_iff_not_reserved (w := w)
  exact ⟨fun hbad => illegalWord_of_not_legal fun h => hlegal.mp h hbad, fun hgood => (hlegal.mpr hgood).exists_decode⟩

end Sys2Proof.Machine
end

section
/-! PROOFS. REG_RD and REG_WR by the outcome of their bus step (spec 40 R67 to R74), the values that a register read
returns (10 R29 to R37), and the write rules of RESET, LOOPBACK and the time fields (40 R70, R71; 45 R114). -/

namespace Sys2Proof

/-! ### regCheck on the offsets that it refuses (20 R43) -/

variable {cfg : Config} {n : Nat}

theorem Config.regCheck_of_odd (h : n % 2 = 1) : cfg.regCheck n = .error .regMisaligned := if_pos h

theorem Config.regCheck_of_unmapped (heven : n % 2 = 0) (h : cfg.regWinBytes ≤ n ∨ ∀ r, n ≠ cfg.off r) :
    cfg.regCheck n = .error .regUnmapped := by
  rw [Config.regCheck, if_neg (by omega)]
  rcases h with hout | hnone
  · rw [if_pos hout]
  · have hreg : cfg.regMap.regAt n = none :=
      List.find?_eq_none.mpr fun r _ hr => hnone r (beq_iff_eq.mp hr).symm
    rw [hreg, ite_self]

end Sys2Proof

namespace Sys2Proof.Machine

open Sys2Proof

variable {s u : State} {i : Instr} {t : Nat} {tables : PerChan Table} {off : Half} {v : Word64} {r : Reg}
  {code : FaultCode} {info : FaultInfo}

/-! ### The entry step of a command other than OPEN and CLOSE (60 R121) -/

theorem State.Idle.tid (h : s.Idle t) : s.tid = t := State.tid_of_host h.turn

theorem State.Idle.current (h : s.Idle t) : s.current = none := by rw [State.current, h.tid, h.idle]

theorem State.commandStep_of_idle (h : s.current = none) (body : PerChan Table → Point → Result) :
    s.commandStep i body = s.start i (s.entryCheck i) := by
  rw [State.commandStep, h]

theorem State.simpleStep_of_idle (h : s.current = none) (body : PerChan Table → Result) :
    s.simpleStep i body = s.start i (s.entryCheck i) :=
  State.commandStep_of_idle h _

theorem State.drainCommand_of_idle (h : s.current = none) (c : Chan) (done : PerChan Table → Nat → State → Result) :
    s.drainCommand i c done = s.start i (s.entryCheck i) :=
  State.commandStep_of_idle h _

theorem exec_of_idle (hl : i.isLifecycle = false) (h : s.current = none) : exec i s = s.start i (s.entryCheck i) := by
  cases i with
  | openDev | closeDev => cases hl
  | chAcquire | chRelease | clkGet | clkSet =>
    simp only [exec, execChAcquire, execChRelease, execClkGet, execClkSet, State.commandStep_of_idle h]
  | chTryAcquire | pollDrain => exact State.drainCommand_of_idle h _ _
  | _ => exact State.simpleStep_of_idle h _

theorem State.entryCheck_of_not_open (h : ¬ s.IsOpen) (i : Instr) :
    s.entryCheck i = some (.notOpen, .opcode i.opcode) := by
  unfold State.entryCheck
  split
  · rfl
  · rfl
  · next tables hd => exact absurd ⟨tables, hd⟩ h

theorem State.entryCheck_of_not_owner {c : Chan} (h : s.IsOpen) (hc : i.ownedChan = some c)
    (ho : s.tid ≠ s.cfg.owner.get c) : s.entryCheck i = some (.channelOwner, .owner c s.tid) := by
  obtain ⟨tables, hd⟩ := h
  simp only [State.entryCheck, hd, hc, if_neg ho]

theorem State.start_of_fault (ht : s.turn = .host t) : s.start i (some (code, info)) = .next (s.faultBy t code info) :=
  congrArg _ (State.raised_of_host ht code info)

/-- Every command other than OPEN and CLOSE has the entry faults of 60 R121 steps 3 and 4. -/
theorem entryFaults_of_not_lifecycle (hl : i.isLifecycle = false) : EntryFaults i := by
  intro s t h
  rw [exec_of_idle hl h.current]
  refine ⟨fun hn => ?_, fun ho c hc hne => ?_⟩
  · rw [State.entryCheck_of_not_open hn, State.start_of_fault h.turn]
  · rw [State.entryCheck_of_not_owner ho hc (h.tid ▸ hne), State.start_of_fault h.turn, h.tid]

/-! ### How a command ends (10 R19, 60 R126) -/

/-- `finish` from a state with the host threads of `s`: a result register that it does not name is that of `s`. -/
theorem State.SameHosts.finished (hu : s.SameHosts u) (ht : s.turn = .host t) (st : Status) (v0 v1 : Option Word64) :
    u.finished st v0 v1 = u.completes t st.code (orKeep v0 (s.thread t).rv0) (orKeep v1 (s.thread t).rv1) := by
  rw [State.finished_eq (hu.turn.trans ht), hu.thread]

theorem State.onAccess_refuse {α : Type} {a : Access α} (ht : s.turn = .host t) (ha : a = .refuse code info)
    (k : α → State → Result) : s.onAccess a k = .next (s.faultBy t code info) := by
  rw [ha, ← State.raised_of_host ht]
  rfl

/-- The scripted answers have no part in where a thread is. -/
theorem State.OpenAt.withAnswers {p : Point} (h : s.OpenAt t i p tables) (l : List Word64) :
    { s with answers := l }.OpenAt t i p tables :=
  ⟨⟨h.place.turn, h.place.exists_thread, h.place.running⟩, h.opened⟩

theorem State.BusReady.withAnswers (h : s.BusReady) (l : List Word64) : { s with answers := l }.BusReady :=
  h.of_eq rfl rfl

/-! ### REG_RD and REG_WR by the outcome of their bus step -/

theorem execRegRd_of_openAt (h : s.OpenAt t (.regRd off) .start tables) :
    exec (.regRd off) s = s.onAccess (s.regRead off.toNat) fun x u => u.finish1 .ok (x.setWidth 64) :=
  h.simpleStep _

theorem execRegWr_of_openAt (h : s.OpenAt t (.regWr off v) .start tables) :
    exec (.regWr off v) s = s.onAccess (s.regWrite off.toNat v) fun _ u => u.finish .ok :=
  h.simpleStep _

/-- 20 R43, 40 R69: an offset that fails regCheck faults before any other effect. -/
theorem exec_of_regCheck_error (hi : i = .regRd off ∨ ∃ v, i = .regWr off v) (h : s.OpenAt t i .start tables)
    (hr : s.cfg.fabricResponds = true) (hc : s.cfg.regCheck off.toNat = .error code) :
    exec i s = .next (s.faultBy t code (.offset off.toNat)) := by
  rcases hi with rfl | ⟨v, rfl⟩
  · rw [execRegRd_of_openAt h]
    exact State.onAccess_refuse h.place.turn (by rw [State.regRead, if_pos hr, hc]) _
  · rw [execRegWr_of_openAt h]
    exact State.onAccess_refuse h.place.turn (by rw [State.regWrite, if_pos hr, hc]) _

/-- Settles O16: the offsets are those on which regCheck answers the fault. -/
theorem registerOffsetChecks : Obligations.RegisterOffsetChecks := by
  unfold Obligations.RegisterOffsetChecks
  intro s t i off tables hi h hr
  exact ⟨fun hodd => exec_of_regCheck_error hi h hr (Config.regCheck_of_odd hodd),
    fun heven hout => exec_of_regCheck_error hi h hr (Config.regCheck_of_unmapped heven hout)⟩

theorem execRegRd_of_busReady (h : s.OpenAt t (.regRd off) .start tables) (hb : s.BusReady)
    (hoff : off.toNat = s.cfg.off r) :
    exec (.regRd off) s = .next ((s.readRegister r).2.completes t 0x00 (some ((s.readRegister r).1.setWidth 64))
      (s.thread t).rv1) := by
  rw [execRegRd_of_openAt h, hoff, hb.regRead]
  exact congrArg _ ((s.readRegister_drawsOnly r).sameHosts.finished h.place.turn .ok _ none)

theorem execRegWr_of_busReady (h : s.OpenAt t (.regWr off v) .start tables) (hb : s.BusReady)
    (hoff : off.toNat = s.cfg.off r) :
    exec (.regWr off v) s =
      s.onAccess (s.writeRegister r off.toNat (v.setWidth 16)) fun _ u => u.finish .ok := by
  rw [execRegWr_of_openAt h, hoff, hb.regWrite]

theorem execRegWr_of_done (h : s.OpenAt t (.regWr off v) .start tables) (hb : s.BusReady)
    (hoff : off.toNat = s.cfg.off r) (hw : s.writeRegister r off.toNat (v.setWidth 16) = .done () u) :
    exec (.regWr off v) s = .next (u.completes t 0x00 (s.thread t).rv0 (s.thread t).rv1) := by
  rw [execRegWr_of_busReady h hb hoff, hw]
  exact congrArg _ ((State.writeRegister_sameHosts hw).finished h.place.turn .ok none none)

theorem execRegWr_of_refuse (h : s.OpenAt t (.regWr off v) .start tables) (hb : s.BusReady)
    (hoff : off.toNat = s.cfg.off r) (hw : s.writeRegister r off.toNat (v.setWidth 16) = .refuse code info) :
    exec (.regWr off v) s = .next (s.faultBy t code info) := by
  rw [execRegWr_of_busReady h hb hoff]
  exact State.onAccess_refuse h.place.turn hw _

/-! ### The values of a register read -/

section
variable {x : Half}

theorem setWidth_half_word (x : Half) : (x.setWidth 64).setWidth 16 = x := by
  rw [BitVec.setWidth_setWidth_of_le x (by decide), BitVec.setWidth_eq]

/-- A draw of a scripted 16-bit value is that value. -/
theorem State.draw16_scripted (s : State) (x : Half) (rest : List Word64) :
    { s with answers := x.setWidth 64 :: rest }.draw16.1 = x :=
  setWidth_half_word x

theorem putBit_of_getLsbD {n : Nat} {b : Bool} (hn : n ≤ 15) (h : x.getLsbD n = b) : putBit x n b = x := by
  refine BitVec.eq_of_getLsbD_eq fun m _ => ?_
  rw [putBit_getLsbD x hn]
  split
  · next hm => rw [hm, h]
  · rfl

/-- A draw whose ready bits are right already is what READY_STATUS reads (10 R37). -/
theorem readyValue_of_bits {cfg : Config} (h : cfg.wf = true) (q : PerChan (List Half))
    (hx : ∀ c, x.getLsbD (cfg.readyBit.get c) = !(q.get c).isEmpty) : readyValue cfg q x = x := by
  have hput (c : Chan) : putBit x (cfg.readyBit.get c) (!(q.get c).isEmpty) = x := by
    obtain ⟨-, -, -, -, -, hbit⟩ := of_decide_eq_true (Config.wf_chanOk h c)
    exact putBit_of_getLsbD (by omega) (hx c)
  simp only [readyValue, Chan.list, List.foldl_cons, List.foldl_nil, hput]

theorem State.ReadsAs.ready_bits (h : s.ReadsAs .ready x) (c : Chan) :
    x.getLsbD (s.cfg.readyBit.get c) = !(s.cmplQ.get c).isEmpty := by
  rw [Bool.eq_iff_iff, h c]
  simp

/-- Every value that a register may read is read where the draw, if one is taken, answers it. -/
theorem State.ReadsAs.readRegister (h : s.ReadsAs r x) (hwf : s.cfg.wf = true) (rest : List Word64) :
    ({ s with answers := x.setWidth 64 :: rest }.readRegister r).1 = x := by
  have hdraw := s.draw16_scripted x rest
  cases r with
  | sentinel =>
    cases hi : s.image with
    | unknown => simpa only [State.readRegister, hi] using hdraw
    | loaded a v => simpa only [State.readRegister, hi] using (h a v hi).symm
  | version =>
    cases hi : s.image with
    | unknown => simpa only [State.readRegister, hi] using hdraw
    | loaded a v => simpa only [State.readRegister, hi] using (h a v hi).symm
  | loopback =>
    cases hl : s.loopback with
    | none => simpa only [State.readRegister, hl] using hdraw
    | some l =>
      cases hf : s.cfg.fabricFaithful with
      | false => simpa only [State.readRegister, hl, hf] using hdraw
      | true => simpa only [State.readRegister, hl, hf] using (h hf l hl).symm
  | time k =>
    cases hk : s.snap.get k with
    | none => simpa only [State.readRegister, hk] using hdraw
    | some f => simpa only [State.readRegister, hk] using (h f hk).symm
  | status c =>
    cases hq : s.cmplQ.get c with
    | nil => simpa only [State.readRegister, hq] using hdraw
    | cons n tail => simpa only [State.readRegister, hq] using (h n tail hq).symm
  | ready =>
    simp only [State.readRegister, hdraw]
    exact readyValue_of_bits hwf s.cmplQ h.ready_bits
  | reset | timeCtrl | ctrl => exact hdraw

end

/-- Settles O15: REG_RD completes with the value of its register's read, by `State.readRegister_readsAs` a value that the
register may read, and by `State.ReadsAs.readRegister` any such value. -/
theorem regReadReturns : Obligations.RegReadReturns := by
  unfold Obligations.RegReadReturns
  refine fun off => ⟨entryFaults_of_not_lifecycle rfl, fun s t r tables h hb hoff => ⟨?_, fun x hx => ?_⟩⟩
  · exact ⟨_, _, s.readRegister_drawsOnly r, State.readRegister_readsAs hb.wf r, execRegRd_of_busReady h hb hoff⟩
  · have hread := execRegRd_of_busReady (h.withAnswers [x.setWidth 64]) (hb.withAnswers _) hoff
    rw [hx.readRegister hb.wf []] at hread
    have hscripted : s.DrawsOnly { s with answers := [x.setWidth 64] } := rfl
    exact ⟨_, hscripted.trans (State.readRegister_drawsOnly _ r), hread⟩

/-! ### Before the bus is energised (40 R67, R68) -/

theorem State.At.lifecycleStep {p : Point} (h : s.At t i p) (check : Option (FaultCode × FaultInfo))
    (body : Point → Result) : s.lifecycleStep i check body = body p := by
  rw [State.lifecycleStep, h.current]
  exact if_pos rfl

/-- A step of OPEN after its first is the step at its program point. -/
theorem execOpenDev_of_at {hash : Word64} {seed : Half} {p : OpenPoint} (h : s.At t (.openDev hash seed) (.opening p)) :
    exec (.openDev hash seed) s = s.openStep hash seed p := by
  rw [exec, execOpenDev]
  exact h.lifecycleStep _ _

theorem State.goto_of_host (h : s.turn = .host t) (i : Instr) (p : Point) : s.goto i p = s.putAt t i p := by
  rw [State.goto, State.tid_of_host h]

theorem State.regRead_energising (hwf : s.cfg.wf = true) (hr : s.cfg.fabricResponds = true)
    (he : s.busEnergized = false) (r : Reg) :
    s.regRead (s.cfg.off r) = .done s.draw16.1 { s.draw16.2 with busEnergized := true } := by
  simp [State.regRead, hr, Config.regCheck_off hwf, he]

theorem State.regWrite_not_energized (hwf : s.cfg.wf = true) (hr : s.cfg.fabricResponds = true)
    (he : s.busEnergized = false) (r : Reg) (v : Word64) :
    s.regWrite (s.cfg.off r) v = .refuse .busNotEnergized (.offset (s.cfg.off r)) := by
  simp [State.regWrite, hr, Config.regCheck_off hwf, he]

/-- Settles O17: OPEN's energising read is the read of a bus not energised, which draws and energises; a write of such a bus
is refused. -/
theorem busEnergising : Obligations.BusEnergising := by
  unfold Obligations.BusEnergising
  refine ⟨fun s t hash seed h hwf hr he => ⟨s.draw.2, s.draw_drawsOnly, ?_⟩,
    fun s t off v r tables h hwf hr hoff he => ?_⟩
  · rw [execOpenDev_of_at h, State.openStep, State.regRead_energising hwf hr he]
    refine congrArg Host.Outcome.next (State.goto_of_host ?_ _ _)
    exact s.draw_turn.trans h.turn
  · rw [execRegWr_of_openAt h, hoff]
    exact State.onAccess_refuse h.place.turn (State.regWrite_not_energized hwf hr he r v) _

/-! ### The write rules -/

section
variable {n : Nat} {x : Half} {c : Chan}

theorem State.writeReset_one (s : State) (n : Nat) :
    s.writeReset n 1 = .done () { s.clearFabric with resetAsserted := true } := if_pos rfl

theorem State.writeReset_zero (s : State) (n : Nat) : s.writeReset n 0 = .done () { s with resetAsserted := false } := rfl

theorem State.writeReset_refused (h0 : x ≠ 0) (h1 : x ≠ 1) : s.writeReset n x = .refuse .regAccess (.access n x) := by
  rw [State.writeReset, if_neg h1, if_neg h0]

theorem State.writeCtrl_refused (h : s.resetAsserted = true) : s.writeCtrl c n x = .refuse .regAccess (.access n x) :=
  if_pos h

theorem State.writeStatus_refused (h : s.resetAsserted = true ∨ x ≠ 0) :
    s.writeStatus c n x = .refuse .regAccess (.access n x) := by
  unfold State.writeStatus
  split
  · rfl
  · next hn => rw [if_pos (h.resolve_left hn)]

theorem State.timeCtrlRefuses_iff : timeCtrlRefuses s.cfg.latchIn s.cfg.latchOut x = true ↔ s.BadTimeCtrl x := by
  simp [timeCtrlRefuses, State.BadTimeCtrl]

theorem State.writeTimeCtrl_refused (h : s.BadTimeCtrl x) :
    s.writeTimeCtrl n x = .refuse .regAccess (.access n x) :=
  if_pos (State.timeCtrlRefuses_iff.mpr h)

end

/-- Settles O18: each alternative is a refusal of the register's own write rule. -/
theorem regWriteRefused : Obligations.RegWriteRefused := by
  unfold Obligations.RegWriteRefused
  intro s t off v r tables h hb hoff x hcase
  refine execRegWr_of_refuse h hb hoff ?_
  rcases hcase with rfl | rfl | rfl | ⟨rfl, h0, h1⟩ | ⟨c, rfl, hreset⟩ | ⟨c, rfl, hbad⟩ | ⟨rfl, hbad⟩
  · rfl
  · rfl
  · rfl
  · exact State.writeReset_refused h0 h1
  · exact State.writeCtrl_refused hreset
  · exact State.writeStatus_refused hbad
  · exact State.writeTimeCtrl_refused hbad

/-- Settles O19: the write rules of LOOPBACK and the time fields refuse no value. -/
theorem loopbackAndTimeFieldWrites : Obligations.LoopbackAndTimeFieldWrites := by
  unfold Obligations.LoopbackAndTimeFieldWrites
  refine fun off v => ⟨entryFaults_of_not_lifecycle rfl, fun s t tables h hb => ⟨fun hoff => ?_, fun k hoff => ?_⟩⟩
  · exact execRegWr_of_done h hb hoff rfl
  · exact execRegWr_of_done h hb hoff rfl

/-- Settles O20: the three cases of WriteReset, the refusals while reset is asserted, and the DMA engine that is not
enabled. -/
theorem resetWrite : Obligations.ResetWrite := by
  unfold Obligations.ResetWrite
  refine ⟨?_, fun s t off v c tables h hb hreset hoff => ?_, fun s c ht hreset => ?_⟩
  · intro s t off v tables h hb hoff x cleared
    refine ⟨fun hx => ?_, fun hx => ?_, fun h0 h1 => ?_⟩
    · have hone (u : State) :
          u.writeRegister .reset off.toNat x = .done () { u.clearFabric with resetAsserted := true } :=
        hx ▸ u.writeReset_one off.toNat
      exact ⟨⟨s.draw.2, s.draw.1, s.draw_drawsOnly, execRegWr_of_done h hb hoff (hone s)⟩,
        fun n rest => execRegWr_of_done (h.withAnswers _) (hb.withAnswers _) hoff (hone _)⟩
    · have hzero : s.writeRegister .reset off.toNat x = .done () { s with resetAsserted := false } :=
        hx ▸ s.writeReset_zero off.toNat
      exact execRegWr_of_done h hb hoff hzero
    · exact execRegWr_of_refuse h hb hoff (State.writeReset_refused h0 h1)
  · rcases hoff with hoff | hoff
    · exact execRegWr_of_refuse h hb hoff (State.writeCtrl_refused hreset)
    · exact execRegWr_of_refuse h hb hoff (State.writeStatus_refused (.inl hreset))
  · rw [agentStep_of_dma ht]
    exact State.dmaStep_of_disabled (.inr (.inl hreset))

end Sys2Proof.Machine
end

section
/-! PROOFS. MEM_RD8 and MEM_WR8 of a byte that the thread may access (spec 40 R72, R75, R76; 20 R47). -/

namespace Sys2Proof.Machine

open Sys2Proof

variable {s u : State} {t : Nat} {tables : PerChan Table} {w : Window} {a : Word64} {b x : Byte}

theorem State.MayAccess.ne_test {n : Nat} (h : s.MayAccess tables t w n) : w ≠ .test := by
  obtain ⟨rfl | rfl, -⟩ := h <;> decide

theorem State.MayAccess.ne_reg {n : Nat} (h : s.MayAccess tables t w n) : w ≠ .reg := by
  obtain ⟨rfl | rfl, -⟩ := h <;> decide

/-- An admitted access is the bus step itself. -/
theorem State.MayAccess.checked {α : Type} {n : Nat} (h : s.MayAccess tables t w n) (ht : s.turn = .host t)
    (hr : s.cfg.fabricResponds = true) (k : Access α) : s.checked tables w n k = k :=
  State.checked_of_pass hr (State.MayAccess.memCheck_none (State.tid_of_host ht ▸ h)) k

theorem State.memRead_written {n : Nat} (hr : s.cfg.fabricResponds = true) (hw : w ≠ .test)
    (hx : s.byteAt w n = some x) : s.memRead w n = .done x s := by
  simp only [State.memRead, if_pos hr, hw, false_and, if_false, hx]

theorem State.memRead_unwritten {n : Nat} (hr : s.cfg.fabricResponds = true) (hn : s.byteAt w n = none) :
    s.memRead w n = .done s.draw8.1 s.draw8.2 := by
  simp only [State.memRead, if_pos hr, hn, ite_self]

/-- A draw of a scripted byte is that byte, and takes its answer. -/
theorem State.draw8_scripted (s : State) (x : Byte) (rest : List Word64) :
    { s with answers := x.setWidth 64 :: rest }.draw8 = (x, { s with answers := rest }) := by
  refine Prod.ext ?_ rfl
  calc (x.setWidth 64).setWidth 8 = x.setWidth 8 := BitVec.setWidth_setWidth_of_le x (by decide)
    _ = x := x.setWidth_eq

theorem State.memRead_scripted {n : Nat} (hr : s.cfg.fabricResponds = true) (hn : s.byteAt w n = none) (x : Byte)
    (rest : List Word64) :
    { s with answers := x.setWidth 64 :: rest }.memRead w n = .done x { s with answers := rest } := by
  have hread := State.memRead_unwritten (s := { s with answers := x.setWidth 64 :: rest }) hr hn
  rwa [State.draw8_scripted] at hread

theorem execMemRd8_of_done (h : s.OpenAt t (.memRd8 w a) .start tables) (hr : s.cfg.fabricResponds = true)
    (hmay : s.MayAccess tables t w a.toNat) (hread : s.memRead w a.toNat = .done x u) (hu : s.SameHosts u) :
    exec (.memRd8 w a) s = .next (u.completes t 0x00 (some (x.setWidth 64)) (s.thread t).rv1) := by
  rw [execMemRd8_of_openAt h, hmay.checked h.place.turn hr, hread]
  exact congrArg _ (hu.finished h.place.turn .ok _ none)

/-- Settles O25: the byte where it was written, and the byte's draw where it was not. -/
theorem memoryByteRead : Obligations.MemoryByteRead := by
  unfold Obligations.MemoryByteRead
  refine fun w a => ⟨entryFaults_of_not_lifecycle rfl, fun s t tables h hr hmay => ⟨fun x hx => ?_, fun hn => ⟨?_, ?_⟩⟩⟩
  · exact execMemRd8_of_done h hr hmay (State.memRead_written hr hmay.ne_test hx) (.refl s)
  · exact ⟨_, _, s.draw_drawsOnly,
      execMemRd8_of_done h hr hmay (State.memRead_unwritten hr hn) s.draw_drawsOnly.sameHosts⟩
  · intro x rest
    exact execMemRd8_of_done (h.withAnswers _) hr hmay (State.memRead_scripted hr hn x rest) ⟨rfl, rfl, rfl⟩

theorem execMemWr8_of_mayAccess (h : s.OpenAt t (.memWr8 w a b) .start tables) (hr : s.cfg.fabricResponds = true)
    (hmay : s.MayAccess tables t w a.toNat) :
    exec (.memWr8 w a b) s =
      .next ((s.storeByte w a.toNat b).completes t 0x00 (s.thread t).rv0 (s.thread t).rv1) := by
  rw [execMemWr8_of_openAt h, hmay.checked h.place.turn hr, State.memWrite, if_pos hr]
  exact congrArg _ ((s.storeByte_keeps w a.toNat b).hosts.finished h.place.turn .ok none none)

/-- Settles O26: the memory is that of the stored byte, which reads back; every other byte is framed by
`State.byteAt_storeByte`. -/
theorem memoryByteWrite : Obligations.MemoryByteWrite := by
  unfold Obligations.MemoryByteWrite
  refine fun w a b => ⟨entryFaults_of_not_lifecycle rfl, fun s t tables h hr hmay => ?_⟩
  have hstore := s.byteAt_storeByte hmay.ne_reg a.toNat b
  refine ⟨(s.storeByte w a.toNat b).mem, execMemWr8_of_mayAccess h hr hmay, ?_, fun w' a' hne => ?_⟩
  · exact (hstore w a.toNat).trans (if_pos ⟨rfl, rfl⟩)
  · exact (hstore w' a').trans (if_neg fun ⟨hw, ha⟩ => hne (Prod.ext hw ha))

end Sys2Proof.Machine
end

section
/-! PROOFS. Where the fabric does not respond no bus step is enabled (spec 40 R66): a thread before one stays as it is, by
cases over the commands and their program points. -/

namespace Sys2Proof.Machine

open Sys2Proof

variable {s : State} {i : Instr} {t : Nat} {tables : PerChan Table} {p : Point}

/-! ### The bus steps of a fabric that does not respond -/

section
variable {α : Type} (hr : s.cfg.fabricResponds = false)
include hr

theorem State.ite_fabricResponds (a b : Access α) : (if s.cfg.fabricResponds then a else b) = b := by
  rw [hr]
  rfl

theorem State.onRegRead_stuck (n : Nat) (k : Half → State → Result) : s.onAccess (s.regRead n) k = .next s := by
  rw [State.regRead, State.ite_fabricResponds hr]
  rfl

theorem State.onRegWrite_stuck (n : Nat) (v : Word64) (k : Unit → State → Result) :
    s.onAccess (s.regWrite n v) k = .next s := by
  rw [State.regWrite, State.ite_fabricResponds hr]
  rfl

theorem State.onMemRead_stuck (w : Window) (n : Nat) (k : Byte → State → Result) :
    s.onAccess (s.memRead w n) k = .next s := by
  rw [State.memRead, State.ite_fabricResponds hr]
  rfl

theorem State.onMemWrite_stuck (w : Window) (n : Nat) (b : Byte) (k : Unit → State → Result) :
    s.onAccess (s.memWrite w n b) k = .next s := by
  rw [State.memWrite, State.ite_fabricResponds hr]
  rfl

theorem State.onChecked_stuck (tables : PerChan Table) (w : Window) (n : Nat) (a : Access α) (k : α → State → Result) :
    s.onAccess (s.checked tables w n a) k = .next s := by
  rw [State.checked, State.ite_fabricResponds hr]
  rfl

end

/-! ### The program points before a bus step -/

theorem Running.onBus_iff : Running.onBus ⟨i, p⟩ = true ↔ Running.ownPoint ⟨i, p⟩ = true ∧
    Running.atInternal ⟨i, p⟩ = false ∧ p ≠ .wait ∧ p ≠ .cut ∧ p ≠ .opening .load := by
  simp [Running.onBus, and_assoc]

/-- A command with one program point is before a bus step only if it starts on one. -/
theorem Running.startsOnBus_of_onBus (hi : Instr.onePoint i = true) (hb : Running.onBus ⟨i, p⟩ = true) :
    p = .start ∧ i.startsOnBus = true := by
  obtain ⟨hown, hint, -, hcut, -⟩ := Running.onBus_iff.mp hb
  cases Running.start_of_onePoint hi hown hcut
  exact ⟨rfl, by simpa [Running.atInternal] using hint⟩

/-! ### Every command before a bus step -/

theorem State.OpenAt.simpleStep_stuck {body : PerChan Table → Result} (h : s.OpenAt t i p tables)
    (hi : Instr.onePoint i = true) (hb : Running.onBus ⟨i, p⟩ = true)
    (hbody : i.startsOnBus = true → body tables = .next s) : s.simpleStep i body = .next s := by
  obtain ⟨rfl, hstart⟩ := Running.startsOnBus_of_onBus hi hb
  rw [h.simpleStep, hbody hstart]

section
variable (hr : s.cfg.fabricResponds = false)
include hr

theorem State.drainStep_stuck {c : Chan} {d : DrainPoint} {done : Nat → State → Result}
    (hd : ∀ n amount, d ≠ .mark n amount) : s.drainStep i c tables d done = .next s := by
  cases d with
  | ready n => exact State.onRegRead_stuck hr _ _
  | status n => exact State.onRegRead_stuck hr _ _
  | mark n amount => exact absurd rfl (hd n amount)
  | ack n => exact State.onRegWrite_stuck hr _ _ _

/-- A drain before a bus step is not before its MarkTail, which is an internal step. -/
theorem State.drainStep_stuck_of_onBus {c : Chan} {d : DrainPoint} {done : Nat → State → Result}
    (hb : Running.onBus ⟨i, .drain d⟩ = true) : s.drainStep i c tables d done = .next s := by
  refine State.drainStep_stuck hr fun n amount hd => ?_
  obtain ⟨-, hint, -⟩ := Running.onBus_iff.mp hb
  rw [hd] at hint
  cases hint

theorem State.OpenAt.drainCommand_stuck {c : Chan} {done : PerChan Table → Nat → State → Result}
    (h : s.OpenAt t i p tables) (hi : i = .pollDrain c ∨ i = .chTryAcquire c) (hb : Running.onBus ⟨i, p⟩ = true) :
    s.drainCommand i c done = .next s := by
  obtain ⟨hown, -, -, hcut, -⟩ := Running.onBus_iff.mp hb
  rw [State.drainCommand, h.commandStep hcut]
  cases p with
  | start => exact State.drainStep_stuck hr nofun
  | drain d => exact State.drainStep_stuck_of_onBus hr hb
  | cut => exact absurd rfl hcut
  | _ => rcases hi with rfl | rfl <;> cases hown

theorem State.OpenAt.execChAcquire_stuck {c : Chan} {us : Word64} (h : s.OpenAt t (.chAcquire c us) p tables)
    (hb : Running.onBus ⟨.chAcquire c us, p⟩ = true) : execChAcquire c us s = .next s := by
  obtain ⟨hown, -, hwait, hcut, -⟩ := Running.onBus_iff.mp hb
  rw [execChAcquire, h.commandStep hcut]
  cases p with
  | start => exact State.drainStep_stuck hr nofun
  | drain d => exact State.drainStep_stuck_of_onBus hr hb
  | wait => exact absurd rfl hwait
  | cut => exact absurd rfl hcut
  | _ => cases hown

theorem State.OpenAt.execChRelease_stuck {c : Chan} {n : Half} {length : Word64}
    (h : s.OpenAt t (.chRelease c n length) p tables) (hb : Running.onBus ⟨.chRelease c n length, p⟩ = true) :
    execChRelease c n length s = .next s := by
  obtain ⟨hown, hint, -, hcut, -⟩ := Running.onBus_iff.mp hb
  rw [execChRelease, h.commandStep hcut]
  cases p with
  | start => cases hint
  | relStart => exact State.onRegWrite_stuck hr _ _ _
  | relEnd => exact State.onRegWrite_stuck hr _ _ _
  | cut => exact absurd rfl hcut
  | _ => cases hown

theorem State.OpenAt.execClkGet_stuck (h : s.OpenAt t .clkGet p tables) (hb : Running.onBus ⟨.clkGet, p⟩ = true) :
    execClkGet s = .next s := by
  obtain ⟨hown, -, -, hcut, -⟩ := Running.onBus_iff.mp hb
  rw [execClkGet, h.commandStep hcut]
  cases p with
  | start => exact State.onRegWrite_stuck hr _ _ _
  | clkGet q =>
    cases q with
    | latchClear => exact State.onRegWrite_stuck hr _ _ _
    | _ => exact State.onRegRead_stuck hr _ _
  | cut => exact absurd rfl hcut
  | _ => cases hown

theorem State.OpenAt.execClkSet_stuck {ns : Word64} (h : s.OpenAt t (.clkSet ns) p tables)
    (hb : Running.onBus ⟨.clkSet ns, p⟩ = true) : execClkSet ns s = .next s := by
  obtain ⟨hown, -, -, hcut, -⟩ := Running.onBus_iff.mp hb
  rw [execClkSet, h.commandStep hcut]
  cases p with
  | start => exact State.onRegWrite_stuck hr _ _ _
  | clkSet q => cases q <;> exact State.onRegWrite_stuck hr _ _ _
  | cut => exact absurd rfl hcut
  | _ => cases hown

/-- OPEN stays before each of its bus steps, and while it waits for the load. -/
theorem State.openStep_stuck {hash : Word64} {seed : Half} {q : OpenPoint} (hq : q.isInternal = false) :
    s.openStep hash seed q = .next s := by
  cases q with
  | map | mapTest => cases hq
  | load => rfl
  | memWrite => exact State.onMemWrite_stuck hr _ _ _ _
  | memRead => exact State.onMemRead_stuck hr _ _ _
  | resetSet | resetClear | tag | regWrite | restore => exact State.onRegWrite_stuck hr _ _ _
  | _ => exact State.onRegRead_stuck hr _ _

theorem State.At.execOpenDev_stuck {hash : Word64} {seed : Half} (h : s.At t (.openDev hash seed) p)
    (hb : Running.onBus ⟨.openDev hash seed, p⟩ = true) : exec (.openDev hash seed) s = .next s := by
  obtain ⟨hown, hint, -⟩ := Running.onBus_iff.mp hb
  cases p with
  | opening q => rw [execOpenDev_of_at h, State.openStep_stuck hr hint]
  | start => cases hint
  | _ => cases hown

/-- In an open device every other command before a bus step stays as it is. -/
theorem State.OpenAt.exec_stuck (h : s.OpenAt t i p tables) (hl : i.isLifecycle = false)
    (hb : Running.onBus ⟨i, p⟩ = true) : exec i s = .next s := by
  cases i with
  | openDev | closeDev => cases hl
  | regRd => exact h.simpleStep_stuck rfl hb fun _ => State.onRegRead_stuck hr _ _
  | regWr => exact h.simpleStep_stuck rfl hb fun _ => State.onRegWrite_stuck hr _ _ _
  | memRd8 | memWr8 => exact h.simpleStep_stuck rfl hb fun _ => State.onChecked_stuck hr ..
  | chAcquire => exact h.execChAcquire_stuck hr hb
  | chRelease => exact h.execChRelease_stuck hr hb
  | chTryAcquire => exact h.drainCommand_stuck hr (.inr rfl) hb
  | pollDrain => exact h.drainCommand_stuck hr (.inl rfl) hb
  | clkGet => exact h.execClkGet_stuck hr hb
  | clkSet => exact h.execClkSet_stuck hr hb
  | _ => exact h.simpleStep_stuck rfl hb nofun

theorem State.At.exec_stuck (h : s.At t i p) (hb : Running.onBus ⟨i, p⟩ = true)
    (hi : i.isLifecycle = true ∨ s.IsOpen) : exec i s = .next s := by
  cases hl : i.isLifecycle with
  | false =>
    obtain ⟨tables, hd⟩ := hi.resolve_left (by simp [hl])
    exact State.OpenAt.exec_stuck hr ⟨h, hd⟩ hl hb
  | true =>
    cases i with
    | openDev => exact h.execOpenDev_stuck hr hb
    | closeDev =>
      obtain ⟨hown, hint, -⟩ := Running.onBus_iff.mp hb
      cases p with
      | start => cases hint
      | _ => cases hown
    | _ => cases hl

end

/-- A thread with a command in progress is not done. -/
theorem State.At.not_final (h : s.At t i p) : s.final = false := by
  have hmem : s.thread t ∈ s.threads := by
    rw [State.thread, List.getD_eq_getElem _ _ h.exists_thread]
    exact List.getElem_mem _
  rw [State.final, Bool.and_eq_false_iff]
  refine .inr (List.all_eq_false.mpr ⟨_, hmem, ?_⟩)
  simp [h.running]

/-- Settles O24: `State.At.exec_stuck`, and a DMA engine that is not enabled. -/
theorem deadBusHangs : Obligations.DeadBusHangs := by
  unfold Obligations.DeadBusHangs
  intro s hr
  refine ⟨fun t i p h hb hi => ⟨h.exec_stuck hr hb hi, h.not_final⟩, fun c ht => ?_⟩
  rw [agentStep_of_dma ht]
  exact State.dmaStep_of_disabled (.inl hr)

end Sys2Proof.Machine
end

section
/-! PROOFS. The LOADER's step (spec 41 R80), and CLOSE with its entry step (41 R85, 60 R121, R122). -/

namespace Sys2Proof.Machine

open Sys2Proof

variable {s : State} {t : Nat}

/-! ### Load -/

/-- A draw with a scripted answer is that answer, and takes it. -/
theorem State.draw_of_answers {a : Word64} {rest : List Word64} (h : s.answers = a :: rest) :
    s.draw = (a, { s with answers := rest }) := by
  rw [State.draw, h]

theorem State.loaderStep_of_waiting {hash : Word64} {seed : Half}
    (h : (s.thread 0).running = some ⟨.openDev hash seed, .opening .load⟩) :
    s.loaderStep = .next (s.load.putAt 0 (.openDev hash seed) (.opening .recheckSentinel)) := by
  rw [State.loaderStep, h]

/-- The state after `State.clearFabric` where its draw is `n` and leaves `rest` of the answers. -/
def State.cleared (s : State) (n : Word64) (rest : List Word64) : State :=
  { s with
    answers := rest, descQ := .all [], cmplQ := .all [], mm2sStart := .all none, counter := n
    snap := .all none, wr := .all none, loopback := none }

theorem State.clearFabric_of_answers {n : Word64} {rest : List Word64} (h : s.answers = n :: rest) :
    s.clearFabric = s.cleared n rest := by
  rw [State.clearFabric, State.draw_of_answers h]
  rfl

/-- The state after Load where its draw is `n` and leaves `rest` of the answers. -/
def State.imageLoaded (s : State) (n : Word64) (rest : List Word64) : State :=
  { s.cleared n rest with
    image := .loaded s.cfg.imgSentinel s.cfg.imgVersion, loadCount := s.loadCount + 1, resetAsserted := false, tc := 0 }

theorem State.load_of_answers {n : Word64} {rest : List Word64} (h : s.answers = n :: rest) :
    s.load = s.imageLoaded n rest := by
  rw [State.load, State.clearFabric_of_answers h]
  rfl

/-- Settles O52: OPEN has no step of its own at the load, and the LOADER's step is Load. -/
theorem loadStep : Obligations.LoadStep := by
  unfold Obligations.LoadStep
  intro s hash seed hlt hr
  refine ⟨fun ht => ?_, fun ht => ?_⟩
  · exact execOpenDev_of_at ⟨ht, hlt, hr⟩
  · rw [agentStep_of_loader ht, State.loaderStep_of_waiting hr]
    refine ⟨⟨s.draw.2, s.draw.1, s.draw_drawsOnly, rfl⟩, fun n rest ha => ?_⟩
    rw [State.load_of_answers ha]
    rfl

/-! ### CLOSE -/

theorem execCloseDev_of_idle (h : s.Idle t) : exec .closeDev s = s.start .closeDev s.entryCheckClose := by
  rw [exec, execCloseDev, State.lifecycleStep, h.current]

theorem State.entryCheckClose_of_not_owner (h : s.tid ≠ 0) :
    s.entryCheckClose = some (.lifecycleOwner, .thread s.tid) := if_pos h

theorem State.entryCheckClose_of_not_open (ht : s.tid = 0) (h : ¬ s.IsOpen) :
    s.entryCheckClose = some (.notOpen, .opcode 0x11) := by
  rw [State.entryCheckClose, if_neg (not_not.mpr ht)]
  split
  · next tables hd => exact absurd ⟨tables, hd⟩ h
  · rfl
  · rfl

theorem State.entryCheckClose_of_open (ht : s.tid = 0) (h : s.IsOpen) : s.entryCheckClose = none := by
  obtain ⟨tables, hd⟩ := h
  rw [State.entryCheckClose, if_neg (not_not.mpr ht), hd]

/-- The step of CLOSE: the other commands in progress are cut off, then Unwind and `finish(OK)`. -/
theorem execCloseDev_of_at (h : s.At t .closeDev .start) : exec .closeDev s =
    .next (s.cutOff.unwind.completes t 0x00 (s.thread t).rv0 (s.thread t).rv1) := by
  rw [exec, execCloseDev, h.lifecycleStep]
  have hturn : s.cutOff.unwind.turn = .host t := h.turn
  have hthread : s.cutOff.unwind.thread t = (s.thread t).cutOff := s.cutOff_thread t
  refine congrArg Host.Outcome.next ((State.finished_eq hturn _ _ _).trans ?_)
  rw [hthread, Thread.cutOff_rv0, Thread.cutOff_rv1]
  rfl

theorem State.cutOff_getElem? (s : State) (k : Nat) : s.cutOff.threads[k]? = s.threads[k]?.map Thread.cutOff :=
  List.getElem?_map

/-- The thread that runs CLOSE is not cut off. -/
theorem State.At.cutOff_self (h : s.At t .closeDev .start) : s.cutOff.threads[t]? = s.threads[t]? := by
  have hth : s.thread t = s.threads[t]'h.exists_thread := List.getD_eq_getElem _ _ h.exists_thread
  have hrun := h.running
  rw [hth] at hrun
  rw [State.cutOff_getElem?, List.getElem?_eq_getElem h.exists_thread, Option.map_some,
    Thread.cutOff_of_lifecycle fun r hr => by rw [hrun] at hr; cases hr; rfl]

/-- Settles O60: the entry step by its check, and the step that cuts the other commands off and unwinds. -/
theorem closeCommand : Obligations.CloseCommand := by
  unfold Obligations.CloseCommand
  refine ⟨fun s t h => ?_, fun s t h => ?_⟩
  · rw [execCloseDev_of_idle h]
    refine ⟨fun hne => ?_, fun h0 hn => ?_, fun h0 ho => ?_⟩
    · rw [State.entryCheckClose_of_not_owner (h.tid ▸ hne), State.start_of_fault h.turn, h.tid]
    · rw [State.entryCheckClose_of_not_open (h.tid.trans h0) hn, State.start_of_fault h.turn]
    · rw [State.entryCheckClose_of_open (h.tid.trans h0) ho]
      exact congrArg Host.Outcome.next (State.goto_of_host h.turn _ _)
  · refine ⟨s.cutOff.threads, ?_, s.cutOff_threads_length, h.cutOff_self, fun k th hk => ?_⟩
    · exact execCloseDev_of_at h
    · rw [State.cutOff_getElem?, hk, Option.map_some]
      refine ⟨fun i p hr hl => ?_, fun hl => ?_⟩
      · rw [Thread.cutOff_of_command hr hl]
      · rw [Thread.cutOff_of_lifecycle fun r hr => hl r.instr r.point hr]

end Sys2Proof.Machine
end

section
/-! PROOFS. The steps of OPEN from its first to the cache tag (spec 41 R77 to R79, 60 R123), and the rules that they rest
on: a mapping draw, a register access on an energised bus, and a fatal end. -/

namespace Sys2Proof.Machine

open Sys2Proof

variable {s u : State} {t : Nat} {hash : Word64} {seed : Half} {p : OpenPoint} {r : Reg} {m : MapStep} {l : Bool}

/-! ### The rules of a step of OPEN -/

theorem State.BusReady.onRegRead (hb : s.BusReady) (r : Reg) (k : Half → State → Result) :
    s.onAccess (s.regRead (s.cfg.off r)) k = k (s.readRegister r).1 (s.readRegister r).2 := by
  rw [hb.regRead]
  rfl

theorem State.BusReady.onRegWrite (hb : s.BusReady) {v : Word64}
    (hw : s.writeRegister r (s.cfg.off r) (v.setWidth 16) = .done () u) (k : Unit → State → Result) :
    s.onAccess (s.regWrite (s.cfg.off r) v) k = k () u := by
  rw [hb.regWrite, hw]
  rfl

theorem State.drawsOnly_of_readRegister {x : Half} (h : s.readRegister r = (x, u)) : s.DrawsOnly u := by
  have hd := s.readRegister_drawsOnly r
  rwa [h] at hd

/-- A step of OPEN that is a register read on an energised bus. -/
theorem State.At.openRead (h : s.At t (.openDev hash seed) (.opening p)) (hb : s.BusReady)
    {k : Half → State → Result} (hp : s.openStep hash seed p = s.onAccess (s.regRead (s.cfg.off r)) k) :
    exec (.openDev hash seed) s = k (s.readRegister r).1 (s.readRegister r).2 := by
  rw [execOpenDev_of_at h, hp, hb.onRegRead]

/-- A step of OPEN that is a register write on an energised bus. -/
theorem State.At.openWrite (h : s.At t (.openDev hash seed) (.opening p)) (hb : s.BusReady) {v : Word64}
    {k : Unit → State → Result} (hp : s.openStep hash seed p = s.onAccess (s.regWrite (s.cfg.off r) v) k)
    (hw : s.writeRegister r (s.cfg.off r) (v.setWidth 16) = .done () u) :
    exec (.openDev hash seed) s = k () u := by
  rw [execOpenDev_of_at h, hp, hb.onRegWrite hw]

/-- OPEN goes on from a state in which it is still thread `t`'s turn. -/
theorem State.next_goto (ht : u.turn = .host t) (i : Instr) (q : Point) :
    Host.Outcome.next (u.goto i q) = (.next (u.putAt t i q) : Result) :=
  congrArg _ (State.goto_of_host ht i q)

/-- A read on an energised bus that OPEN only goes on from: it takes draws, and every value is one that the register may
return. -/
theorem State.At.openRead_goes (h : s.At t (.openDev hash seed) (.opening p)) (hb : s.BusReady)
    {q : Half → OpenPoint} (hp : s.openStep hash seed p = s.onAccess (s.regRead (s.cfg.off r)) fun x v =>
      .next (v.goto (.openDev hash seed) (.opening (q x)))) :
    ∃ x u, s.DrawsOnly u ∧ s.ReadsAs r x ∧
      exec (.openDev hash seed) s = .next (u.putAt t (.openDev hash seed) (.opening (q x))) := by
  have hd := s.readRegister_drawsOnly r
  refine ⟨_, _, hd, State.readRegister_readsAs hb.wf r, (h.openRead hb hp).trans ?_⟩
  exact State.next_goto (hd.sameHosts.turn.trans h.turn) _ _

/-- A write on an energised bus that OPEN only goes on from. -/
theorem State.At.openWrite_goes (h : s.At t (.openDev hash seed) (.opening p)) (hb : s.BusReady) {v : Word64}
    {q : OpenPoint} (hp : s.openStep hash seed p = s.onAccess (s.regWrite (s.cfg.off r) v) fun _ w =>
      .next (w.goto (.openDev hash seed) (.opening q)))
    (hw : s.writeRegister r (s.cfg.off r) (v.setWidth 16) = .done () u) :
    exec (.openDev hash seed) s = .next (u.putAt t (.openDev hash seed) (.opening q)) := by
  rw [h.openWrite hb hp hw]
  exact State.next_goto ((State.writeRegister_sameHosts hw).turn.trans h.turn) _ _

/-- A fatal end of OPEN (41 R77). -/
theorem State.failOpen_of_host (ht : u.turn = .host t) (st : Status) (v0 v1 : Word64) :
    u.failOpen st v0 v1 = .next (u.unwind.completes t st.code (some v0) (some v1)) :=
  congrArg Host.Outcome.next (State.finished_eq (s := u.unwind) ht st (some v0) (some v1))

/-! ### The mappings (41 R78) -/

theorem execOpenDev_start (h : s.At t (.openDev hash seed) .start) :
    exec (.openDev hash seed) s =
      .next ({ s with dev := .opening }.putAt t (.openDev hash seed) (.opening (.map .node))) := by
  rw [exec, execOpenDev, h.lifecycleStep]
  exact State.next_goto (u := { s with dev := .opening }) h.turn _ _

/-- The two draws of a mapping step, where they are scripted. -/
theorem State.mapStep_of_answers {ok err : Word64} {rest : List Word64} (h : s.answers = ok :: err :: rest) (i : Instr)
    (m : MapStep) : s.mapStep i m =
      if ok.getLsbD 0 then .next (({ s with answers := rest }.mapDone m).goto i (.opening m.after))
      else { s with answers := rest }.failOpen .deviceOpenFailure m.number err := by
  rw [State.mapStep, State.drawBool, State.draw_of_answers h]
  rfl

theorem State.At.map_fails (h : s.At t (.openDev hash seed) (.opening (.map m))) {ok err : Word64} {rest : List Word64}
    (ha : s.answers = ok :: err :: rest) (hok : ok.getLsbD 0 = false) :
    exec (.openDev hash seed) s =
      .next ({ s with answers := rest }.unwind.completes t 0x10 (some m.number) (some err)) := by
  rw [execOpenDev_of_at h, State.openStep, State.mapStep_of_answers ha, hok]
  exact State.failOpen_of_host (u := { s with answers := rest }) h.turn _ _ _

theorem State.At.map_goes (h : s.At t (.openDev hash seed) (.opening (.map m))) {ok err : Word64} {rest : List Word64}
    (ha : s.answers = ok :: err :: rest) (hok : ok.getLsbD 0 = true) :
    exec (.openDev hash seed) s =
      .next (({ s with answers := rest }.mapDone m).putAt t (.openDev hash seed) (.opening m.after)) := by
  rw [execOpenDev_of_at h, State.openStep, State.mapStep_of_answers ha, hok]
  exact State.next_goto ((State.mapDone_sameHosts { s with answers := rest } m).turn.trans h.turn) _ _

/-! ### The checks (41 R79) -/

/-- After the loopback is read OPEN goes on to the reset pulse only if all three reads match. -/
theorem State.afterChecks_eq (s : State) (hash : Word64) (a v l : Half) : s.afterChecks hash a v l =
      if a = s.cfg.sentinelExpected ∧ v = s.cfg.versionExpected ∧ l = hash.setWidth 16 then .resetSet false
      else .load := by
  simp only [State.afterChecks, ne_eq, ← not_and_or, ite_not]

/-- The re-check after a load: the sentinel is looked at before the version. -/
theorem State.At.recheckVersion_outcomes {a v : Half} (h : s.At t (.openDev hash seed) (.opening (.recheckVersion a)))
    (hb : s.BusReady) (hv : s.readRegister .version = (v, u)) :
    (a ≠ s.cfg.sentinelExpected → exec (.openDev hash seed) s =
      .next (u.unwind.completes t 0x11 (some (a.setWidth 64)) (some (s.cfg.sentinelExpected.setWidth 64)))) ∧
    (a = s.cfg.sentinelExpected → v ≠ s.cfg.versionExpected → exec (.openDev hash seed) s =
      .next (u.unwind.completes t 0x12 (some (v.setWidth 64)) (some (s.cfg.versionExpected.setWidth 64)))) ∧
    (a = s.cfg.sentinelExpected → v = s.cfg.versionExpected → exec (.openDev hash seed) s =
      .next (u.putAt t (.openDev hash seed) (.opening (.resetSet true)))) := by
  have hd := State.drawsOnly_of_readRegister hv
  have hturn := hd.sameHosts.turn.trans h.turn
  rw [h.openRead hb (r := .version) rfl, hv, State.afterRecheck, hd.keeps.form.cfg]
  refine ⟨fun ha => ?_, fun ha hne => ?_, fun ha heq => ?_⟩
  · rw [if_pos ha]
    exact State.failOpen_of_host hturn _ _ _
  · rw [if_neg (not_not.mpr ha), if_pos hne]
    exact State.failOpen_of_host hturn _ _ _
  · rw [if_neg (not_not.mpr ha), if_neg (not_not.mpr heq)]
    exact State.next_goto hturn _ _

/-! ### The reset pulse and the cache tag (41 R79) -/

theorem State.At.resetSet_goes (h : s.At t (.openDev hash seed) (.opening (.resetSet l))) (hb : s.BusReady) :
    exec (.openDev hash seed) s = .next ({ s.clearFabric with resetAsserted := true }.putAt t (.openDev hash seed)
      (.opening (.resetClear l))) :=
  h.openWrite_goes hb rfl (s.writeReset_one _)

theorem State.At.resetClear_goes (h : s.At t (.openDev hash seed) (.opening (.resetClear l)))
    (hb : s.BusReady) : exec (.openDev hash seed) s =
      .next ({ s with resetAsserted := false }.putAt t (.openDev hash seed) (.opening (.tag l))) :=
  h.openWrite_goes hb rfl (s.writeReset_zero _)

/-- A write of LOOPBACK by OPEN leaves the value there. -/
theorem State.writeRegister_loopback (s : State) (n : Nat) (x : Half) :
    s.writeRegister .loopback n ((x.setWidth 64).setWidth 16) = .done () { s with loopback := some x } := by
  rw [setWidth_half_word]
  rfl

theorem State.At.tag_goes (h : s.At t (.openDev hash seed) (.opening (.tag l))) (hb : s.BusReady) :
    exec (.openDev hash seed) s =
      .next ({ s with loopback := some (hash.setWidth 16) }.putAt t (.openDev hash seed) (.opening (.save l))) :=
  h.openWrite_goes hb rfl (s.writeRegister_loopback _ _)

/-- Settles O56: one rule for each program point. -/
theorem openBringUpSteps : Obligations.OpenBringUpSteps := by
  unfold Obligations.OpenBringUpSteps
  intro s t hash seed
  refine ⟨execOpenDev_start, fun ok err rest ha => ⟨fun hok => ?_, fun hok => ?_⟩, fun hb => ?_, fun l h hb => ?_,
    fun l h hb => h.resetClear_goes hb, fun l h hb => h.tag_goes hb⟩
  · exact ⟨fun h => h.map_fails ha hok, fun h => h.map_fails ha hok, fun h => h.map_fails ha hok,
      fun h => h.map_fails ha hok⟩
  · exact ⟨fun h => h.map_goes ha hok, fun h => h.map_goes ha hok, fun h => h.map_goes ha hok,
      fun h => h.map_goes ha hok⟩
  · refine ⟨fun h => h.openRead_goes hb rfl, fun a h => h.openRead_goes hb rfl, fun a v h => ?_,
      fun h => h.openRead_goes hb rfl, fun a h => ?_⟩
    · simp only [← State.afterChecks_eq]
      exact h.openRead_goes hb rfl
    · exact ⟨_, _, s.readRegister_drawsOnly .version, State.readRegister_readsAs hb.wf .version,
        h.recheckVersion_outcomes hb rfl⟩
  · exact ⟨s.draw.2, s.draw.1, s.draw_drawsOnly, h.resetSet_goes hb⟩

end Sys2Proof.Machine
end

section
/-! PROOFS. The steps of OPEN's register and memory self-tests, and its successful end (spec 41 R81 to R84, 60 R123),
for every generator. -/

namespace Sys2Proof.Machine

open Sys2Proof

variable {s u : State} {t : Nat} {hash : Word64} {seed : Half} {l : Bool} {saved : Half} {k : Nat}

/-! ### The value pairs that a mismatch reports (60 R123) -/

/-- An expected value above an actual one in one word. -/
theorem shiftLeft_or_eq_append {n m : Nat} (x : BitVec n) (y : BitVec m) :
    (x.setWidth 64 <<< m) ||| y.setWidth 64 = (x ++ y).setWidth 64 := by
  refine BitVec.eq_of_getLsbD_eq fun i hi => ?_
  simp only [BitVec.getLsbD_or, BitVec.getLsbD_shiftLeft, BitVec.getLsbD_setWidth, BitVec.getLsbD_append]
  by_cases him : i < m
  · simp [him, hi]
  · simp [him, hi, show i - m < 64 by omega, BitVec.getLsbD_of_ge y i (by omega)]

/-! ### The register self-test (41 R81) -/

theorem State.At.regWrite_goes (h : s.At t (.openDev hash seed) (.opening (.regWrite l saved k))) (hb : s.BusReady) :
    exec (.openDev hash seed) s = .next ({ s with loopback := some (Config.prng16 seed k) }.putAt t (.openDev hash seed)
      (.opening (.regRead l saved k))) :=
  h.openWrite_goes hb rfl (s.writeRegister_loopback _ _)

/-- The read of the register self-test goes on exactly where it returns what was written. -/
theorem State.At.regRead_outcomes (h : s.At t (.openDev hash seed) (.opening (.regRead l saved k))) (hb : s.BusReady)
    {r : Half} (hr : s.readRegister .loopback = (r, u)) :
    (r = Config.prng16 seed k → exec (.openDev hash seed) s =
      .next (u.putAt t (.openDev hash seed) (.opening (s.selfTestRegAt l saved (k + 1))))) ∧
    (r ≠ Config.prng16 seed k → exec (.openDev hash seed) s = .next (u.unwind.completes t 0x13
      (some (BitVec.ofNat 64 k)) (some ((Config.prng16 seed k ++ r).setWidth 64)))) := by
  have hturn := (State.drawsOnly_of_readRegister hr).sameHosts.turn.trans h.turn
  rw [h.openRead hb (r := .loopback) rfl, hr]
  refine ⟨fun heq => ?_, fun hne => ?_⟩
  · rw [if_neg (not_not.mpr heq)]
    exact State.next_goto hturn _ _
  · rw [if_pos hne, shiftLeft_or_eq_append]
    exact State.failOpen_of_host hturn _ _ _

theorem State.At.restore_goes (h : s.At t (.openDev hash seed) (.opening (.restore l saved))) (hb : s.BusReady) :
    exec (.openDev hash seed) s =
      .next ({ s with loopback := some saved }.putAt t (.openDev hash seed) (.opening (.mapTest l))) :=
  h.openWrite_goes hb rfl (s.writeRegister_loopback _ _)

/-! ### The memory self-test and the end of OPEN (41 R82 to R84) -/

/-- The state that a successful OPEN leaves but for its `finish`: TEST unmapped and the tables there (41 R82, R83). -/
def State.opened (s : State) (tables : PerChan Table) : State :=
  { s with mapped := { s.mapped with test := false }, dev := .opened tables }

theorem State.openDone_of_host (ht : u.turn = .host t) (l : Bool) :
    u.openDone l = .next ((u.opened u.cfg.freshTables).completes t 0x00 (some (if l then 1 else 0)) (some 0)) :=
  congrArg Host.Outcome.next (State.finished_eq (s := u.opened u.cfg.freshTables) ht .ok _ _)

/-- The two draws of the TEST mapping step, where they are scripted. -/
theorem State.mapTestStep_of_answers {ok err : Word64} {rest : List Word64} (h : s.answers = ok :: err :: rest)
    (i : Instr) (l : Bool) : s.mapTestStep i l =
      if ok.getLsbD 0 then { s with answers := rest }.testMapped.selfTestMemWriteAt i l 0
      else { s with answers := rest }.failOpen .deviceOpenFailure 5 err := by
  rw [State.mapTestStep, State.drawBool, State.draw_of_answers h]
  rfl

section
variable {ok err : Word64} {rest : List Word64} (h : s.At t (.openDev hash seed) (.opening (.mapTest l)))
  (ha : s.answers = ok :: err :: rest)
include h ha

theorem State.At.mapTest_fails (hok : ok.getLsbD 0 = false) : exec (.openDev hash seed) s =
    .next ({ s with answers := rest }.unwind.completes t 0x10 (some 5) (some err)) := by
  rw [execOpenDev_of_at h, State.openStep, State.mapTestStep_of_answers ha, hok]
  exact State.failOpen_of_host (u := { s with answers := rest }) h.turn _ _ _

theorem State.At.mapTest_goes (hok : ok.getLsbD 0 = true) (hpos : 0 < s.cfg.testBytes) : exec (.openDev hash seed) s =
    .next ({ s with answers := rest }.testMapped.putAt t (.openDev hash seed) (.opening (.memWrite l 0))) := by
  rw [execOpenDev_of_at h, State.openStep, State.mapTestStep_of_answers ha, hok, if_pos rfl, State.selfTestMemWriteAt]
  refine (if_pos hpos).trans ?_
  exact State.next_goto (u := { s with answers := rest }.testMapped) h.turn _ _

/-- A TEST window without a byte is not tested. -/
theorem State.At.mapTest_opens (hok : ok.getLsbD 0 = true) (hzero : s.cfg.testBytes = 0) : exec (.openDev hash seed) s =
    .next (({ s with answers := rest }.testMapped.opened s.cfg.freshTables).completes t 0x00
      (some (if l then 1 else 0)) (some 0)) := by
  have hpos : ¬ 0 < { s with answers := rest }.testMapped.cfg.testBytes := Nat.not_lt_of_le hzero.le
  rw [execOpenDev_of_at h, State.openStep, State.mapTestStep_of_answers ha, hok, if_pos rfl, State.selfTestMemWriteAt,
    if_neg hpos, if_neg hpos]
  exact State.openDone_of_host (u := { s with answers := rest }.testMapped) h.turn l

end

theorem State.At.memWrite_goes (h : s.At t (.openDev hash seed) (.opening (.memWrite l k)))
    (hr : s.cfg.fabricResponds = true) (hk : k < s.cfg.testBytes) : exec (.openDev hash seed) s =
      .next ((s.storeByte .test k (Config.prng8 seed k)).putAt t (.openDev hash seed)
        (.opening (if k + 1 < s.cfg.testBytes then .memWrite l (k + 1) else .memRead l 0))) := by
  have hpos : 0 < (s.storeByte .test k (Config.prng8 seed k)).cfg.testBytes := Nat.zero_lt_of_lt hk
  have hturn : (s.storeByte .test k (Config.prng8 seed k)).turn = .host t := h.turn
  rw [execOpenDev_of_at h, State.openStep, State.memWrite, if_pos hr, State.onAccess, State.selfTestMemWriteAt,
    if_pos hpos, State.next_goto hturn, State.next_goto hturn, State.storeByte_cfg]
  split <;> rfl

/-- A read of TEST in a fabric that responds takes draws only, and in a faithful one returns the byte written (40 R72). -/
theorem State.memRead_test (hr : s.cfg.fabricResponds = true) (k : Nat) :
    ∃ x u, s.memRead .test k = .done x u ∧ s.DrawsOnly u ∧
      (s.cfg.fabricFaithful = true → ∀ y, s.byteAt .test k = some y → x = y ∧ u = s) := by
  rw [State.memRead, if_pos hr]
  split
  · next hf => exact ⟨_, _, rfl, s.draw_drawsOnly, fun hf' => by rw [hf.2] at hf'; cases hf'⟩
  · split
    · next x hx => exact ⟨x, s, rfl, s.drawsOnly_refl, fun _ y hy => ⟨Option.some.inj (hx.symm.trans hy), rfl⟩⟩
    · next hn => exact ⟨_, _, rfl, s.draw_drawsOnly, fun _ y hy => by rw [hn] at hy; cases hy⟩

/-- The read of the memory self-test: the next byte, the end of OPEN, or the mismatch. -/
theorem State.At.memRead_outcomes (h : s.At t (.openDev hash seed) (.opening (.memRead l k))) {r : Byte}
    (hread : s.memRead .test k = .done r u) (hu : s.DrawsOnly u) :
    (r = Config.prng8 seed k →
      (k + 1 < s.cfg.testBytes → exec (.openDev hash seed) s =
        .next (u.putAt t (.openDev hash seed) (.opening (.memRead l (k + 1))))) ∧
      (s.cfg.testBytes ≤ k + 1 → exec (.openDev hash seed) s =
        .next ((u.opened s.cfg.freshTables).completes t 0x00 (some (if l then 1 else 0)) (some 0)))) ∧
    (r ≠ Config.prng8 seed k → exec (.openDev hash seed) s = .next (u.unwind.completes t 0x14
      (some (BitVec.ofNat 64 k)) (some ((Config.prng8 seed k ++ r).setWidth 64)))) := by
  have hturn := hu.sameHosts.turn.trans h.turn
  rw [execOpenDev_of_at h, State.openStep, hread, State.onAccess, State.selfTestMemReadAt, hu.keeps.form.cfg]
  refine ⟨fun heq => ?_, fun hne => ?_⟩
  · rw [if_neg (not_not.mpr heq)]
    refine ⟨fun hlt => ?_, fun hle => ?_⟩
    · rw [if_pos hlt, State.next_goto hturn]
    · rw [if_neg (Nat.not_lt_of_le hle), State.openDone_of_host hturn, hu.keeps.form.cfg]
  · rw [if_pos hne, shiftLeft_or_eq_append]
    exact State.failOpen_of_host hturn _ _ _

/-- Settles O57: one rule for each program point. -/
theorem openSelfTestSteps : Obligations.OpenSelfTestSteps := by
  unfold Obligations.OpenSelfTestSteps
  intro s t hash seed l
  refine ⟨fun hb => ⟨fun h => h.openRead_goes hb rfl, fun saved k h => h.regWrite_goes hb, fun saved k h => ?_,
      fun saved h => h.restore_goes hb⟩,
    fun ok err rest h ha => ⟨h.mapTest_fails ha, fun hok => ⟨h.mapTest_goes ha hok, h.mapTest_opens ha hok⟩⟩,
    fun hr => ⟨fun k h hk => h.memWrite_goes hr hk, fun k h _ => ?_⟩⟩
  · exact ⟨_, _, s.readRegister_drawsOnly .loopback, State.readRegister_readsAs hb.wf .loopback,
      h.regRead_outcomes hb rfl⟩
  · obtain ⟨r, u, hread, hu, hfaithful⟩ := State.memRead_test hr k
    exact ⟨r, u, hu, fun hf x hx => (hfaithful hf x hx).1, h.memRead_outcomes hread hu⟩

end Sys2Proof.Machine
end

section
/-! PROOFS. Runs of a command with no other agent between its steps, and OPEN up to where it goes on to the load or to
the reset pulse (spec 41 R78, R79): the mappings and the checks, each as a run from one program point to another. -/

namespace Sys2Proof.Machine

open Sys2Proof

variable {s u v : State} {t : Nat} {hash : Word64} {seed : Half}

/-! ### Runs of a command -/

section
variable {i : Instr} {m n : Nat} {r : Result}

theorem execN_one (i : Instr) (s : State) : execN i 1 s = exec i s := by
  rw [execN]
  cases exec i s <;> rfl

/-- A run that is a run to a state and a run from there. -/
theorem execN_trans (h : execN i m s = .next u) (hr : execN i n u = r) : execN i (m + n) s = r := by
  induction m generalizing s with
  | zero =>
    cases h
    rwa [Nat.zero_add]
  | succ m ih =>
    rw [Nat.succ_add]
    rw [execN] at h ⊢
    cases hs : exec i s with
    | next s' =>
      rw [hs] at h
      exact ih h
    | fault | refused =>
      rw [hs] at h
      cases h

/-- A loop whose every iteration takes `m` steps. -/
theorem execN_loop {f : Nat → State} (n : Nat) (h : ∀ k < n, execN i m (f k) = .next (f (k + 1))) :
    execN i (m * n) (f 0) = .next (f n) := by
  induction n with
  | zero => rfl
  | succ n ih => exact execN_trans (ih fun k hk => h k (Nat.lt_succ_of_lt hk)) (h n n.lt_succ_self)

end

/-! ### A thread in OPEN -/

/-- `u` with thread `t` at program point `p` of OPEN. -/
abbrev State.atOpen (u : State) (t : Nat) (hash : Word64) (seed : Half) (p : OpenPoint) : State :=
  u.putAt t (.openDev hash seed) (.opening p)

theorem State.putAt_putAt (h : t < u.threads.length) (i j : Instr) (p q : Point) :
    (u.putAt t i p).putAt t j q = u.putAt t j q := by
  simp [State.putAt, h]

/-- One step of OPEN from program point `p` to `q`, in the words of the step rules. -/
theorem execN_one_of_goes {p q : OpenPoint} (h : t < v.threads.length)
    (hs : exec (.openDev hash seed) s = .next ((v.atOpen t hash seed p).atOpen t hash seed q)) :
    execN (.openDev hash seed) 1 s = .next (v.atOpen t hash seed q) := by
  rw [execN_one, hs]
  exact congrArg Host.Outcome.next (State.putAt_putAt h _ _ _ _)

/-- The last step of OPEN from program point `p`, in the words of the step rules. -/
theorem execN_one_of_ends {p : OpenPoint} {st : Byte} {a b : Option Word64} (h : t < v.threads.length)
    (hs : exec (.openDev hash seed) s = .next ((v.atOpen t hash seed p).completes t st a b)) :
    execN (.openDev hash seed) 1 s = .next (v.completes t st a b) := by
  rw [execN_one, hs, State.completes_putAt h]

/-- Thread `t` is there, and next to step. -/
structure State.HasTurn (s : State) (t : Nat) : Prop where
  turn : s.turn = .host t
  exists_thread : t < s.threads.length

theorem State.At.hasTurn {i : Instr} {p : Point} (h : s.At t i p) : s.HasTurn t := ⟨h.turn, h.exists_thread⟩

theorem State.HasTurn.of_same (h : u.HasTurn t) (hv : u.SameHosts v) : v.HasTurn t :=
  ⟨hv.turn.trans h.turn, hv.threads ▸ h.exists_thread⟩

theorem State.HasTurn.atPoint (h : u.HasTurn t) (hash : Word64) (seed : Half) (p : OpenPoint) :
    (u.atOpen t hash seed p).At t (.openDev hash seed) (.opening p) := by
  refine ⟨h.turn, by simpa [State.putAt] using h.exists_thread, ?_⟩
  rw [State.atOpen, State.putAt, State.thread_setThread_same u _ h.exists_thread]

/-! ### The mappings (41 R78) -/

theorem State.HasTurn.mapDone (h : u.HasTurn t) (rest : List Word64) (m : MapStep) :
    ({ u with answers := rest }.mapDone m).HasTurn t :=
  h.of_same (.trans (u := { u with answers := rest }) ⟨rfl, rfl, rfl⟩ (State.mapDone_sameHosts _ m))

theorem State.HasTurn.execN_map (h : u.HasTurn t) {m : MapStep} {ok err : Word64} {rest : List Word64}
    (ha : u.answers = ok :: err :: rest) (hok : ok.getLsbD 0 = true) :
    execN (.openDev hash seed) 1 (u.atOpen t hash seed (.map m)) =
      .next (({ u with answers := rest }.mapDone m).atOpen t hash seed m.after) := by
  have hgoes := (h.atPoint hash seed (.map m)).map_goes ha hok
  cases m <;> exact execN_one_of_goes h.exists_thread hgoes

/-- The state after the four mapping steps: the windows mapped and unwritten, the bus not energised. -/
def State.windowsMapped (u : State) (rest : List Word64) : State :=
  { u with
    answers := rest, mapped := { u.mapped with reg := true, framer := true, deframer := true }
    busEnergized := false, mem := { u.mem with framer := [], deframer := [] } }

theorem State.HasTurn.execN_maps (h : u.HasTurn t) {ok1 e1 ok2 e2 ok3 e3 ok4 e4 : Word64} {rest : List Word64}
    (ha : u.answers = ok1 :: e1 :: ok2 :: e2 :: ok3 :: e3 :: ok4 :: e4 :: rest)
    (hok : ∀ ok ∈ [ok1, ok2, ok3, ok4], ok.getLsbD 0 = true) :
    execN (.openDev hash seed) 4 (u.atOpen t hash seed (.map .node)) =
      .next ((u.windowsMapped rest).atOpen t hash seed .energise) := by
  simp only [List.forall_mem_cons] at hok
  obtain ⟨hok1, hok2, hok3, hok4, -⟩ := hok
  have hnode := h.mapDone (ok2 :: e2 :: ok3 :: e3 :: ok4 :: e4 :: rest) .node
  have hreg := hnode.mapDone (ok3 :: e3 :: ok4 :: e4 :: rest) .reg
  have hframer := hreg.mapDone (ok4 :: e4 :: rest) .framer
  exact execN_trans (m := 1) (n := 3) (h.execN_map ha hok1) <|
    execN_trans (m := 1) (n := 2) (hnode.execN_map rfl hok2) <|
    execN_trans (m := 1) (n := 1) (hreg.execN_map rfl hok3) (hframer.execN_map rfl hok4)

/-! ### The checks (41 R79) -/

/-- The energising read, where its draw is scripted (40 R67). -/
theorem State.At.energise_goes (h : s.At t (.openDev hash seed) (.opening .energise)) (hwf : s.cfg.wf = true)
    (hr : s.cfg.fabricResponds = true) (he : s.busEnergized = false) {x : Word64} {rest : List Word64}
    (ha : s.answers = x :: rest) : exec (.openDev hash seed) s =
      .next ({ s with answers := rest, busEnergized := true }.putAt t (.openDev hash seed) (.opening .sentinel)) := by
  rw [execOpenDev_of_at h, State.openStep, State.regRead_energising hwf hr he, State.draw16, State.draw_of_answers ha]
  exact State.next_goto (u := { s with answers := rest, busEnergized := true }) h.turn _ _

theorem State.HasTurn.execN_energise (h : u.HasTurn t) (hwf : u.cfg.wf = true) (hr : u.cfg.fabricResponds = true)
    (he : u.busEnergized = false) {x : Word64} {rest : List Word64} (ha : u.answers = x :: rest) :
    execN (.openDev hash seed) 1 (u.atOpen t hash seed .energise) =
      .next ({ u with answers := rest, busEnergized := true }.atOpen t hash seed .sentinel) := by
  exact execN_one_of_goes h.exists_thread ((h.atPoint hash seed .energise).energise_goes hwf hr he ha)

theorem State.BusReady.atOpen (hb : u.BusReady) (t : Nat) (hash : Word64) (seed : Half) (p : OpenPoint) :
    (u.atOpen t hash seed p).BusReady := hb.of_eq rfl rfl

/-- A register read does not look at the threads. -/
theorem State.readRegister_putAt (u : State) (t : Nat) (i : Instr) (p : Point) (r : Reg) :
    (u.putAt t i p).readRegister r = ((u.readRegister r).1, (u.readRegister r).2.putAt t i p) := by
  have hdraw : (u.putAt t i p).draw16 = (u.draw16.1, u.draw16.2.putAt t i p) := by
    simp only [State.draw16, State.draw, State.putAt_answers]
    cases u.answers <;> rfl
  cases r with
  | reset | timeCtrl | ctrl => exact hdraw
  | ready => simp only [State.readRegister, hdraw, State.putAt_cfg, State.putAt_cmplQ]
  | sentinel | version =>
    simp only [State.readRegister, hdraw, State.putAt_image]
    cases u.image <;> rfl
  | loopback =>
    simp only [State.readRegister, hdraw, State.putAt_loopback, State.putAt_cfg]
    cases u.loopback <;> cases u.cfg.fabricFaithful <;> rfl
  | time k =>
    simp only [State.readRegister, hdraw, State.putAt_snap]
    cases u.snap.get k <;> rfl
  | status c =>
    simp only [State.readRegister, hdraw, State.putAt_cmplQ]
    cases u.cmplQ.get c <;> rfl

/-- A read of a run that OPEN only goes on from. -/
theorem State.HasTurn.execN_read (h : u.HasTurn t) (hb : u.BusReady) {p : OpenPoint} {q : Half → OpenPoint} {r : Reg}
    {x : Half}
    (hp : (u.atOpen t hash seed p).openStep hash seed p =
      (u.atOpen t hash seed p).onAccess ((u.atOpen t hash seed p).regRead (u.cfg.off r)) fun x v =>
        .next (v.goto (.openDev hash seed) (.opening (q x))))
    (hr : u.readRegister r = (x, v)) :
    execN (.openDev hash seed) 1 (u.atOpen t hash seed p) = .next (v.atOpen t hash seed (q x)) := by
  have hv := h.of_same (State.drawsOnly_of_readRegister hr).sameHosts
  refine execN_one_of_goes (p := p) hv.exists_thread ?_
  rw [(h.atPoint hash seed p).openRead (hb.atOpen t hash seed p) hp, State.readRegister_putAt, hr]
  exact State.next_goto (u := v.atOpen t hash seed p) hv.turn _ _

/-! ### The three check reads (41 R79) -/

section
variable {a w x : Half} {rest : List Word64}

theorem State.readRegister_sentinel_loaded (h : s.image = .loaded a w) : s.readRegister .sentinel = (a, s) := by
  rw [State.readRegister, h]

theorem State.readRegister_version_loaded (h : s.image = .loaded a w) : s.readRegister .version = (w, s) := by
  rw [State.readRegister, h]

theorem State.readRegister_loopback_stored (hf : s.cfg.fabricFaithful = true) (h : s.loopback = some x) :
    s.readRegister .loopback = (x, s) := by
  rw [State.readRegister, h, hf]

/-- The image registers of an UNKNOWN image, and the loopback without a value, are draws. -/
theorem State.readRegister_draws {r : Reg}
    (h : ((r = .sentinel ∨ r = .version) ∧ s.image = .unknown) ∨ (r = .loopback ∧ s.loopback = none)) :
    s.readRegister r = s.draw16 := by
  rcases h with ⟨rfl | rfl, h⟩ | ⟨rfl, h⟩ <;> rw [State.readRegister, h]

theorem State.draw16_of_answers (h : s.answers = x.setWidth 64 :: rest) :
    s.draw16 = (x, { s with answers := rest }) := by
  rw [State.draw16, State.draw_of_answers h, setWidth_half_word]

theorem State.withAnswers_self (h : s.answers = rest) : { s with answers := rest } = s := by
  subst h
  rfl

/-- The reads of sentinel and version, of a known image or of an UNKNOWN one with its two draws scripted. -/
theorem State.HasTurn.execN_readImage (h : u.HasTurn t) (hb : u.BusReady) {d : List Word64}
    (hd : (u.image = .loaded a w ∧ d = []) ∨ (u.image = .unknown ∧ d = [a.setWidth 64, w.setWidth 64]))
    (ha : u.answers = d ++ rest) : execN (.openDev hash seed) 2 (u.atOpen t hash seed .sentinel) =
      .next ({ u with answers := rest }.atOpen t hash seed (.loopback a w)) := by
  rcases hd with ⟨hi, rfl⟩ | ⟨hi, rfl⟩
  · rw [State.withAnswers_self (rest := rest) ha]
    exact execN_trans (m := 1) (n := 1) (h.execN_read hb rfl (State.readRegister_sentinel_loaded hi))
      (h.execN_read hb rfl (State.readRegister_version_loaded hi))
  · have hsentinel : u.readRegister .sentinel = (a, { u with answers := w.setWidth 64 :: rest }) :=
      (State.readRegister_draws (.inl ⟨.inl rfl, hi⟩)).trans (State.draw16_of_answers ha)
    have himage : ({ u with answers := w.setWidth 64 :: rest } : State).image = .unknown := hi
    have hversion := (State.readRegister_draws (.inl ⟨.inr rfl, himage⟩)).trans (State.draw16_of_answers rfl)
    have hu : ({ u with answers := w.setWidth 64 :: rest } : State).HasTurn t := h.of_same ⟨rfl, rfl, rfl⟩
    exact execN_trans (m := 1) (n := 1) (h.execN_read hb rfl hsentinel)
      (hu.execN_read (hb.withAnswers _) rfl hversion)

/-- The read of the loopback, stored or with its draw scripted. -/
theorem State.HasTurn.execN_readLoopback (h : u.HasTurn t) (hb : u.BusReady) (hf : u.cfg.fabricFaithful = true)
    {d : List Word64} (hd : (u.loopback = some x ∧ d = []) ∨ (u.loopback = none ∧ d = [x.setWidth 64]))
    (ha : u.answers = d ++ rest) : execN (.openDev hash seed) 1 (u.atOpen t hash seed (.loopback a w)) =
      .next ({ u with answers := rest }.atOpen t hash seed (u.afterChecks hash a w x)) := by
  have hread : u.readRegister .loopback = (x, { u with answers := rest }) := by
    rcases hd with ⟨hl, rfl⟩ | ⟨hl, rfl⟩
    · rw [State.withAnswers_self (rest := rest) ha, State.readRegister_loopback_stored hf hl]
    · exact (State.readRegister_draws (.inr ⟨rfl, hl⟩)).trans (State.draw16_of_answers ha)
  exact h.execN_read hb (q := u.afterChecks hash a w) rfl hread

/-- The three check reads, as their values and draws are given. -/
theorem State.HasTurn.execN_checks (h : u.HasTurn t) (hb : u.BusReady) (hf : u.cfg.fabricFaithful = true)
    {draws : List Word64} (hc : u.ChecksRead a w x draws) (ha : u.answers = draws ++ rest) :
    execN (.openDev hash seed) 3 (u.atOpen t hash seed .sentinel) =
      .next ({ u with answers := rest }.atOpen t hash seed (u.afterChecks hash a w x)) := by
  obtain ⟨d1, d2, rfl, himage, hloopback⟩ := hc
  rw [List.append_assoc] at ha
  have hu : ({ u with answers := d2 ++ rest } : State).HasTurn t := h.of_same ⟨rfl, rfl, rfl⟩
  exact execN_trans (m := 2) (n := 1) (h.execN_readImage hb himage ha)
    (hu.execN_readLoopback (hb.withAnswers _) hf hloopback rfl)

end

/-- The state after OPEN's first nine steps: the windows mapped and the bus energised. -/
def State.broughtUp (s : State) (rest : List Word64) : State :=
  { { s with dev := .opening }.windowsMapped rest with busEnergized := true }

/-- OPEN up to where it goes on to the load or to the reset pulse. -/
theorem State.At.execN_bringUp (h : s.At t (.openDev hash seed) .start) (hwf : s.cfg.wf = true)
    (hr : s.cfg.fabricResponds = true) (hf : s.cfg.fabricFaithful = true) {a w y : Half} {checks rest : List Word64}
    (hc : s.ChecksRead a w y checks) {ok1 e1 ok2 e2 ok3 e3 ok4 e4 x : Word64}
    (ha : s.answers = [ok1, e1, ok2, e2, ok3, e3, ok4, e4, x] ++ checks ++ rest)
    (hok : ∀ ok ∈ [ok1, ok2, ok3, ok4], ok.getLsbD 0 = true) :
    execN (.openDev hash seed) 9 s = .next ((s.broughtUp rest).atOpen t hash seed (s.afterChecks hash a w y)) := by
  have hstart : ({ s with dev := .opening } : State).HasTurn t := h.hasTurn.of_same ⟨rfl, rfl, rfl⟩
  have hmapped : ({ s with dev := .opening }.windowsMapped (x :: (checks ++ rest))).HasTurn t :=
    hstart.of_same ⟨rfl, rfl, rfl⟩
  have hup : (s.broughtUp (checks ++ rest)).HasTurn t := hmapped.of_same ⟨rfl, rfl, rfl⟩
  rw [List.append_assoc] at ha
  exact execN_trans (m := 1) (n := 8) ((execN_one _ _).trans (execOpenDev_start h)) <|
    execN_trans (m := 4) (n := 4) (hstart.execN_maps ha hok) <|
    execN_trans (m := 1) (n := 3) (hmapped.execN_energise hwf hr rfl rfl) <|
    hup.execN_checks ⟨hwf, hr, rfl⟩ hf hc rfl

end Sys2Proof.Machine
end

section
/-! PROOFS. OPEN from the reset pulse to its end, with no other agent between its steps (spec 41 R79, R81 to R84), and
the two statements about a whole OPEN. -/

namespace Sys2Proof.Machine

open Sys2Proof

variable {s u : State} {t : Nat} {hash : Word64} {seed : Half} {l : Bool} {saved x : Half} {k : Nat}

/-! ### A write of the loopback, and of the TEST window -/

theorem State.writeLoopback_sameHosts (u : State) (x : Half) : u.SameHosts (u.writeLoopback x) := ⟨rfl, rfl, rfl⟩

theorem State.BusReady.writeLoopback (hb : u.BusReady) (x : Half) : (u.writeLoopback x).BusReady := hb.of_eq rfl rfl

theorem State.writeLoopback_self (h : u.loopback = some x) : u.writeLoopback x = u := by rw [State.writeLoopback, ← h]

/-! ### The reset pulse and the cache tag (41 R79) -/

/-- The state after the reset pulse, whose draw is `n` and leaves `rest` of the answers. -/
def State.pulsed (u : State) (n : Word64) (rest : List Word64) : State :=
  { u.cleared n rest with resetAsserted := false }

theorem State.HasTurn.execN_resetPulse (h : u.HasTurn t) (hb : u.BusReady) {n : Word64} {rest : List Word64}
    (ha : u.answers = n :: rest) : execN (.openDev hash seed) 3 (u.atOpen t hash seed (.resetSet l)) =
      .next (((u.pulsed n rest).writeLoopback (hash.setWidth 16)).atOpen t hash seed (.save l)) := by
  have hasserted : ({ u.cleared n rest with resetAsserted := true } : State).HasTurn t := h.of_same ⟨rfl, rfl, rfl⟩
  have hpulsed : (u.pulsed n rest).HasTurn t := h.of_same ⟨rfl, rfl, rfl⟩
  have hset := (h.atPoint hash seed (.resetSet l)).resetSet_goes (hb.atOpen t hash seed _)
  rw [State.clearFabric_of_answers (s := u.atOpen t hash seed (.resetSet l)) ha] at hset
  have hclear := (hasserted.atPoint hash seed (.resetClear l)).resetClear_goes (hb.of_eq rfl rfl)
  have htag := (hpulsed.atPoint hash seed (.tag l)).tag_goes (hb.of_eq rfl rfl)
  exact execN_trans (m := 1) (n := 2) (execN_one_of_goes hasserted.exists_thread hset) <|
    execN_trans (m := 1) (n := 1) (execN_one_of_goes hpulsed.exists_thread hclear)
      (execN_one_of_goes (v := (u.pulsed n rest).writeLoopback (hash.setWidth 16)) h.exists_thread htag)

/-! ### The register self-test (41 R81) -/

/-- A write and a read of the register self-test in a faithful fabric: the value read is the value written. -/
theorem State.HasTurn.execN_registerIteration (h : u.HasTurn t) (hb : u.BusReady) (hf : u.cfg.fabricFaithful = true)
    (hk : k < u.cfg.selftestIters) :
    execN (.openDev hash seed) 2 (u.atOpen t hash seed (u.selfTestRegAt l saved k)) =
      .next ((u.writeLoopback (Config.prng16 seed k)).atOpen t hash seed (u.selfTestRegAt l saved (k + 1))) := by
  have hu := h.of_same (u.writeLoopback_sameHosts (Config.prng16 seed k))
  have hwrite := (h.atPoint hash seed (.regWrite l saved k)).regWrite_goes (hb.atOpen t hash seed _)
  have hread := ((hu.atPoint hash seed (.regRead l saved k)).regRead_outcomes (hb.of_eq rfl rfl)
    (State.readRegister_loopback_stored hf rfl)).1 rfl
  have hpoint : u.selfTestRegAt l saved k = .regWrite l saved k := if_pos hk
  rw [hpoint]
  exact execN_trans (m := 1) (n := 1) (execN_one_of_goes hu.exists_thread hwrite)
    (execN_one_of_goes hu.exists_thread hread)

/-- What the loopback holds after `k` iterations of the register self-test. -/
def lastWritten (seed saved : Half) : Nat → Half
  | 0 => saved
  | k + 1 => Config.prng16 seed k

/-- OPEN before iteration `k` of the register self-test. -/
def State.registerTest (u : State) (t : Nat) (hash : Word64) (seed : Half) (l : Bool) (saved : Half) (k : Nat) :
    State :=
  (u.writeLoopback (lastWritten seed saved k)).atOpen t hash seed (u.selfTestRegAt l saved k)

/-- The whole register self-test: it restores the loopback, and so changes nothing. -/
theorem State.HasTurn.execN_registerTest (h : u.HasTurn t) (hb : u.BusReady) (hf : u.cfg.fabricFaithful = true)
    (hl : u.loopback = some saved) :
    execN (.openDev hash seed) (1 + (2 * u.cfg.selftestIters + 1)) (u.atOpen t hash seed (.save l)) =
      .next (u.atOpen t hash seed (.mapTest l)) := by
  have hturn (x : Half) := h.of_same (u.writeLoopback_sameHosts x)
  have hsave : execN (.openDev hash seed) 1 (u.atOpen t hash seed (.save l)) =
      .next (u.registerTest t hash seed l saved 0) := by
    rw [State.registerTest, lastWritten, State.writeLoopback_self hl]
    exact h.execN_read hb (q := fun x => u.selfTestRegAt l x 0) rfl (State.readRegister_loopback_stored hf hl)
  have hloop : execN (.openDev hash seed) (2 * u.cfg.selftestIters) (u.registerTest t hash seed l saved 0) =
      .next (u.registerTest t hash seed l saved u.cfg.selftestIters) :=
    execN_loop _ fun k hk => (hturn _).execN_registerIteration (hb.writeLoopback _) hf hk
  have hlast : u.selfTestRegAt l saved u.cfg.selftestIters = .restore l saved := if_neg (lt_irrefl _)
  have hrestore : execN (.openDev hash seed) 1 (u.registerTest t hash seed l saved u.cfg.selftestIters) =
      .next ((u.writeLoopback saved).atOpen t hash seed (.mapTest l)) := by
    rw [State.registerTest, hlast]
    have hat := (hturn (lastWritten seed saved u.cfg.selftestIters)).atPoint hash seed (.restore l saved)
    exact execN_one_of_goes h.exists_thread (hat.restore_goes (hb.of_eq rfl rfl))
  rw [State.writeLoopback_self hl] at hrestore
  exact execN_trans hsave (execN_trans hloop hrestore)

/-! ### The memory self-test (41 R82, R83) -/

/-- What TEST holds after `k` writes of the memory self-test. -/
def testPattern (seed : Half) : Nat → Memory
  | 0 => []
  | k + 1 => Memory.write (testPattern seed k) k (Config.prng8 seed k)

theorem read_testPattern (seed : Half) (n k : Nat) :
    Memory.read (testPattern seed n) k = if k < n then some (Config.prng8 seed k) else none := by
  induction n with
  | zero => rfl
  | succ n ih =>
    rw [testPattern, Memory.read_write, ih]
    by_cases hk : k = n
    · subst hk
      simp
    · rw [if_neg hk]
      exact if_congr (by omega) rfl rfl

/-- `u` with TEST holding `m`. -/
def State.withTest (u : State) (m : Memory) : State := { u with mem := { u.mem with test := m } }

theorem State.withTest_sameHosts (u : State) (m : Memory) : u.SameHosts (u.withTest m) := ⟨rfl, rfl, rfl⟩

/-- OPEN before index `k` of the write pass of the memory self-test, or before its read pass. -/
def State.memoryWriteTest (u : State) (t : Nat) (hash : Word64) (seed : Half) (l : Bool) (k : Nat) : State :=
  (u.withTest (testPattern seed k)).atOpen t hash seed (if k < u.cfg.testBytes then .memWrite l k else .memRead l 0)

theorem State.memoryWriteTest_of_lt (hk : k < u.cfg.testBytes) : u.memoryWriteTest t hash seed l k =
    (u.withTest (testPattern seed k)).atOpen t hash seed (.memWrite l k) := by
  rw [State.memoryWriteTest, if_pos hk]

theorem State.memoryWriteTest_of_le (hk : u.cfg.testBytes ≤ k) : u.memoryWriteTest t hash seed l k =
    (u.withTest (testPattern seed k)).atOpen t hash seed (.memRead l 0) := by
  rw [State.memoryWriteTest, if_neg (Nat.not_lt_of_le hk)]

/-- In a faithful fabric the read pass reads what the write pass has left (40 R72). -/
theorem State.memRead_of_byteAt (hr : u.cfg.fabricResponds = true) (hf : u.cfg.fabricFaithful = true) {b : Byte}
    (hb : u.byteAt .test k = some b) : u.memRead .test k = .done b u := by
  obtain ⟨x, v, hread, -, hval⟩ := State.memRead_test hr k
  obtain ⟨rfl, rfl⟩ := hval hf b hb
  exact hread

section
variable (h : u.HasTurn t) (hr : u.cfg.fabricResponds = true)
include h hr

theorem State.HasTurn.execN_memoryWrite (hk : k < u.cfg.testBytes) :
    execN (.openDev hash seed) 1 (u.memoryWriteTest t hash seed l k) =
      .next (u.memoryWriteTest t hash seed l (k + 1)) := by
  have hu := h.of_same (u.withTest_sameHosts (testPattern seed k))
  rw [State.memoryWriteTest_of_lt hk]
  exact execN_one_of_goes h.exists_thread ((hu.atPoint hash seed (.memWrite l k)).memWrite_goes hr hk)

variable (hf : u.cfg.fabricFaithful = true)
include hf

/-- A step of the read pass that reads the generator's byte. -/
theorem State.HasTurn.execN_memoryRead (hb : u.byteAt .test k = some (Config.prng8 seed k)) :
    (k + 1 < u.cfg.testBytes → execN (.openDev hash seed) 1 (u.atOpen t hash seed (.memRead l k)) =
      .next (u.atOpen t hash seed (.memRead l (k + 1)))) ∧
    (u.cfg.testBytes ≤ k + 1 → execN (.openDev hash seed) 1 (u.atOpen t hash seed (.memRead l k)) =
      .next ((u.opened u.cfg.freshTables).completes t 0x00 (some (if l then 1 else 0)) (some 0))) := by
  have hread := State.memRead_of_byteAt (u := u.atOpen t hash seed (.memRead l k)) hr hf hb
  have hstep := ((h.atPoint hash seed (.memRead l k)).memRead_outcomes hread (State.drawsOnly_refl _)).1 rfl
  exact ⟨fun hlt => execN_one_of_goes h.exists_thread (hstep.1 hlt),
    fun hle => execN_one_of_ends h.exists_thread (v := u.opened u.cfg.freshTables) (p := .memRead l k) (hstep.2 hle)⟩

/-- Both passes over a TEST window of at least one byte, and the end of OPEN. -/
theorem State.HasTurn.execN_memoryPasses {n : Nat} (hn : u.cfg.testBytes = n + 1) :
    execN (.openDev hash seed) (1 * (n + 1) + (1 * n + 1)) (u.memoryWriteTest t hash seed l 0) =
      .next (((u.withTest (testPattern seed (n + 1))).opened u.cfg.freshTables).completes t 0x00
        (some (if l then 1 else 0)) (some 0)) := by
  have hu := h.of_same (u.withTest_sameHosts (testPattern seed (n + 1)))
  have hbyte {k : Nat} (hk : k < n + 1) :
      (u.withTest (testPattern seed (n + 1))).byteAt .test k = some (Config.prng8 seed k) :=
    (read_testPattern seed (n + 1) k).trans (if_pos hk)
  have hread {k : Nat} (hk : k < n + 1) := hu.execN_memoryRead (hash := hash) (l := l) hr hf (hbyte hk)
  have hwrites : execN (.openDev hash seed) (1 * (n + 1)) (u.memoryWriteTest t hash seed l 0) =
      .next ((u.withTest (testPattern seed (n + 1))).atOpen t hash seed (.memRead l 0)) := by
    rw [← State.memoryWriteTest_of_le hn.le]
    exact execN_loop _ fun k hk => h.execN_memoryWrite hr (by omega)
  have hreads : execN (.openDev hash seed) (1 * n)
      ((u.withTest (testPattern seed (n + 1))).atOpen t hash seed (.memRead l 0)) =
        .next ((u.withTest (testPattern seed (n + 1))).atOpen t hash seed (.memRead l n)) :=
    execN_loop (f := fun k => (u.withTest (testPattern seed (n + 1))).atOpen t hash seed (.memRead l k)) n fun k hk =>
      (hread (Nat.lt_succ_of_lt hk)).1 (show k + 1 < u.cfg.testBytes by omega)
  exact execN_trans hwrites (execN_trans hreads ((hread n.lt_succ_self).2 hn.le))

/-- The TEST mapping, whose draws are scripted, the memory self-test, and the end of OPEN. -/
theorem State.HasTurn.execN_memoryTest {ok err : Word64} {rest : List Word64} (ha : u.answers = ok :: err :: rest)
    (hok : ok.getLsbD 0 = true) :
    execN (.openDev hash seed) (1 + 2 * u.cfg.testBytes) (u.atOpen t hash seed (.mapTest l)) =
      .next ((({ u with answers := rest }.withTest (testPattern seed u.cfg.testBytes)).opened
        u.cfg.freshTables).completes t 0x00 (some (if l then 1 else 0)) (some 0)) := by
  have hu : ({ u with answers := rest }.testMapped).HasTurn t := h.of_same ⟨rfl, rfl, rfl⟩
  cases hn : u.cfg.testBytes with
  | zero =>
    have hend := (h.atPoint hash seed (.mapTest l)).mapTest_opens ha hok hn
    exact execN_one_of_ends (v := { u with answers := rest }.testMapped.opened u.cfg.freshTables) (p := .mapTest l)
      h.exists_thread hend
  | succ n =>
    have hpos : 0 < u.cfg.testBytes := by omega
    have hpos' : 0 < { u with answers := rest }.testMapped.cfg.testBytes := hpos
    have hmap := execN_one_of_goes hu.exists_thread ((h.atPoint hash seed (.mapTest l)).mapTest_goes ha hok hpos)
    have hpasses := hu.execN_memoryPasses (hash := hash) (seed := seed) (l := l) hr hf hn
    rw [State.memoryWriteTest_of_lt hpos'] at hpasses
    have hsteps : 1 + 2 * (n + 1) = 1 + (1 * (n + 1) + (1 * n + 1)) := by omega
    rw [hsteps]
    exact execN_trans hmap hpasses

end

/-! ### A whole OPEN (41 R84) -/

/-- The state that OPEN leaves from its reset pulse on, but for its `finish`. -/
def State.selfTested (u : State) (n : Word64) (rest : List Word64) (hash : Word64) (seed : Half) : State :=
  (((u.pulsed n rest).writeLoopback (hash.setWidth 16)).withTest (testPattern seed u.cfg.testBytes)).opened
    u.cfg.freshTables

/-- OPEN from the reset pulse to its end. -/
theorem State.HasTurn.execN_fromReset (h : u.HasTurn t) (hb : u.BusReady) (hf : u.cfg.fabricFaithful = true)
    {n ok err : Word64} {rest : List Word64} (ha : u.answers = n :: ok :: err :: rest) (hok : ok.getLsbD 0 = true) :
    execN (.openDev hash seed) (6 + 2 * u.cfg.selftestIters + 2 * u.cfg.testBytes)
      (u.atOpen t hash seed (.resetSet l)) =
        .next ((u.selfTested n rest hash seed).completes t 0x00 (some (if l then 1 else 0)) (some 0)) := by
  have htagged : ((u.pulsed n (ok :: err :: rest)).writeLoopback (hash.setWidth 16)).HasTurn t :=
    h.of_same ⟨rfl, rfl, rfl⟩
  have hsteps : 6 + 2 * u.cfg.selftestIters + 2 * u.cfg.testBytes =
      3 + (1 + (2 * u.cfg.selftestIters + 1) + (1 + 2 * u.cfg.testBytes)) := by omega
  rw [hsteps]
  exact execN_trans (h.execN_resetPulse hb ha) <|
    execN_trans (htagged.execN_registerTest (hb.of_eq rfl rfl) hf rfl) (htagged.execN_memoryTest hb.responds hf rfl hok)

theorem State.afterChecks_of_match (s : State) (hash : Word64) :
    s.afterChecks hash s.cfg.sentinelExpected s.cfg.versionExpected (hash.setWidth 16) = .resetSet false := by
  rw [State.afterChecks_eq, if_pos ⟨rfl, rfl, rfl⟩]

theorem State.afterChecks_of_mismatch {a w y : Half}
    (h : a ≠ s.cfg.sentinelExpected ∨ w ≠ s.cfg.versionExpected ∨ y ≠ hash.setWidth 16) :
    s.afterChecks hash a w y = .load := if_pos h

/-- What a whole OPEN without a load leaves of the state. -/
theorem State.selfTested_of_broughtUp (s : State) (n : Word64) (r rest : List Word64) (hash : Word64) (seed : Half) :
    (s.broughtUp r).selfTested n rest hash seed = { s with
      answers := rest, dev := .opened (Config.freshTables s.cfg)
      mapped := { s.mapped with reg := true, framer := true, deframer := true, test := false }
      busEnergized := true, loopback := some (hash.setWidth 16), resetAsserted := false, descQ := .all []
      cmplQ := .all [], mm2sStart := .all none, counter := n, snap := .all none, wr := .all none
      mem := ⟨[], [], testPattern seed s.cfg.testBytes⟩ } := by
  simp only [State.selfTested, State.opened, State.withTest, State.writeLoopback, State.pulsed, State.cleared,
    State.broughtUp, State.windowsMapped]

/-- Settles O58: nine steps to the reset pulse, and the self-tests. -/
theorem openWithoutReload : Obligations.OpenWithoutReload := by
  unfold Obligations.OpenWithoutReload
  intro s t hash seed ok1 e1 ok2 e2 ok3 e3 ok4 e4 x checks n ok5 e5 rest hat hwf hr hf hchecks ha hok
  refine ⟨testPattern seed s.cfg.testBytes, ?_, read_testPattern seed s.cfg.testBytes⟩
  have hup := hat.execN_bringUp (hash := hash) (seed := seed) hwf hr hf hchecks
    (ha.trans (List.append_assoc _ [n, ok5, e5] rest)) fun ok hmem => hok ok (List.mem_append_left [ok5] hmem)
  rw [State.afterChecks_of_match] at hup
  have hturn : (s.broughtUp (n :: ok5 :: e5 :: rest)).HasTurn t := hat.hasTurn.of_same ⟨rfl, rfl, rfl⟩
  have hend := hturn.execN_fromReset (hash := hash) (seed := seed) (l := false) ⟨hwf, hr, rfl⟩ hf rfl
    (hok ok5 (by simp))
  have hsteps : 15 + 2 * s.cfg.selftestIters + 2 * s.cfg.testBytes =
      9 + (6 + 2 * s.cfg.selftestIters + 2 * s.cfg.testBytes) := by omega
  rw [State.selfTested_of_broughtUp] at hend
  rw [hsteps]
  exact execN_trans hup hend

/-- OPEN after the load of an image that matches goes on to the reset pulse. -/
theorem State.HasTurn.execN_recheck (h : u.HasTurn t) (hb : u.BusReady)
    (hi : u.image = .loaded u.cfg.sentinelExpected u.cfg.versionExpected) :
    execN (.openDev hash seed) 2 (u.atOpen t hash seed .recheckSentinel) =
      .next (u.atOpen t hash seed (.resetSet true)) := by
  have hat := h.atPoint hash seed (.recheckVersion u.cfg.sentinelExpected)
  obtain ⟨-, -, hversion⟩ := hat.recheckVersion_outcomes (hb.atOpen t hash seed _)
    (State.readRegister_version_loaded hi)
  exact execN_trans (m := 1) (n := 1) (h.execN_read hb rfl (State.readRegister_sentinel_loaded hi))
    (execN_one_of_goes h.exists_thread (hversion rfl rfl))

/-- The LOADER's step with a scripted draw (41 R80). -/
theorem agentStep_of_load {n : Word64} {rest : List Word64} (ht : s.turn = .loader)
    (h : (s.thread 0).running = some ⟨.openDev hash seed, .opening .load⟩) (ha : s.answers = n :: rest) :
    agentStep s = .next ((s.imageLoaded n rest).atOpen 0 hash seed .recheckSentinel) := by
  rw [agentStep_of_loader ht, State.loaderStep_of_waiting h, State.load_of_answers ha]

/-- The LOADER's step where OPEN waits for it, and the turn given back to thread 0 (41 R80). -/
theorem State.HasTurn.agentStep_loader (h : u.HasTurn 0) {n : Word64} {rest : List Word64}
    (ha : u.answers = n :: rest) : ∃ v, agentStep { u.atOpen 0 hash seed .load with turn := .loader } = .next v ∧
      { v with turn := .host 0 } = (u.imageLoaded n rest).atOpen 0 hash seed .recheckSentinel := by
  have hu : { u with turn := .host 0 } = u := by rw [← h.turn]
  refine ⟨_, agentStep_of_load rfl (h.atPoint hash seed .load).running ha, ?_⟩
  calc _ = (({ u with turn := .host 0 }.imageLoaded n rest).atOpen 0 hash seed .load).atOpen 0 hash seed
        .recheckSentinel := rfl
    _ = (u.imageLoaded n rest).atOpen 0 hash seed .recheckSentinel := by
        rw [hu]
        exact State.putAt_putAt (u := u.imageLoaded n rest) h.exists_thread _ _ _ _

/-- What a whole OPEN with a load leaves of the state. -/
theorem State.selfTested_of_load (s : State) (n' n : Word64) (r r' rest : List Word64) (hash : Word64) (seed : Half) :
    ((s.broughtUp r).imageLoaded n' r').selfTested n rest hash seed = { s with
      answers := rest, dev := .opened (Config.freshTables s.cfg)
      mapped := { s.mapped with reg := true, framer := true, deframer := true, test := false }
      busEnergized := true, image := .loaded s.cfg.imgSentinel s.cfg.imgVersion, loadCount := s.loadCount + 1
      loopback := some (hash.setWidth 16), resetAsserted := false, descQ := .all [], cmplQ := .all []
      mm2sStart := .all none, counter := n, snap := .all none, wr := .all none, tc := 0
      mem := ⟨[], [], testPattern seed s.cfg.testBytes⟩ } := by
  simp only [State.selfTested, State.opened, State.withTest, State.writeLoopback, State.pulsed, State.cleared,
    State.imageLoaded, State.broughtUp, State.windowsMapped]

/-- Settles O59: nine steps to the load, the LOADER's step, the re-check, and the self-tests. -/
theorem openWithOneReload : Obligations.OpenWithOneReload := by
  unfold Obligations.OpenWithOneReload
  intro s t hash seed a v y ok1 e1 ok2 e2 ok3 e3 ok4 e4 x checks n' n ok5 e5 rest hat ht hwf hr hf hchecks hne
    himgs himgv ha hok
  subst ht
  have hup := hat.execN_bringUp hwf hr hf hchecks (ha.trans (List.append_assoc _ [n', n, ok5, e5] rest))
    fun ok hmem => hok ok (List.mem_append_left [ok5] hmem)
  rw [State.afterChecks_of_mismatch hne] at hup
  have hturn : (s.broughtUp (n' :: n :: ok5 :: e5 :: rest)).HasTurn 0 := hat.hasTurn.of_same ⟨rfl, rfl, rfl⟩
  obtain ⟨loaded, hloader, hloaded⟩ := hturn.agentStep_loader (hash := hash) (seed := seed) rfl
  refine ⟨_, loaded, testPattern seed s.cfg.testBytes, hup, rfl, hloader, ?_, read_testPattern seed s.cfg.testBytes⟩
  have hafter : ((s.broughtUp (n' :: n :: ok5 :: e5 :: rest)).imageLoaded n' (n :: ok5 :: e5 :: rest)).HasTurn 0 :=
    hturn.of_same ⟨rfl, rfl, rfl⟩
  have himage : Image.loaded s.cfg.imgSentinel s.cfg.imgVersion =
      .loaded s.cfg.sentinelExpected s.cfg.versionExpected := by rw [himgs, himgv]
  have hrecheck := hafter.execN_recheck (hash := hash) (seed := seed) ⟨hwf, hr, rfl⟩ himage
  have hend := hafter.execN_fromReset (hash := hash) (seed := seed) (l := true) ⟨hwf, hr, rfl⟩ hf rfl
    (hok ok5 (by simp))
  have hsteps : 8 + 2 * s.cfg.selftestIters + 2 * s.cfg.testBytes =
      2 + (6 + 2 * s.cfg.selftestIters + 2 * s.cfg.testBytes) := by omega
  rw [State.selfTested_of_load] at hend
  rw [hloaded, hsteps]
  exact execN_trans hrecheck hend

end Sys2Proof.Machine
end

section
/-! PROOFS. What one step does to `dev` and the tables (spec 10 R22, R23; 42 R89): a table changes only by one of the three
table functions (42 R90 to R92), so INV1 to INV5 of 42 R88 are kept and slots and cursors move in order. -/

namespace Sys2Proof.Machine

open Sys2Proof

variable {s s' u : State} {i : Instr} {c : Chan}

/-! ### The three changes of a table -/

/-- The commands that claim the head slot of channel `c` (42 R94; 43 R100, R101). -/
def Instr.acquires (i : Instr) (c : Chan) : Prop := i = .tblAcqHead c ∨ i = .chTryAcquire c ∨ ∃ us, i = .chAcquire c us

/-- The commands that release handle `h` of channel `c` (42 R95; 43 R102). -/
def Instr.releases (i : Instr) (c : Chan) (h : Half) : Prop := i = .tblMarkRel c h ∨ ∃ len, i = .chRelease c h len

/-- The commands that mark a completion of channel `c` (42 R96; 44 R110). -/
def Instr.marks (i : Instr) (c : Chan) : Prop := Instr.drains i c ∨ ∃ bytes, i = .tblMarkTail c bytes

/-- Every change that command `i` makes to table `a` of channel `c` (42 R89). -/
inductive Table.Change (cfg : Config) (c : Chan) (i : Instr) (a : Table) : Table → Prop
  | acquire (hi : Instr.acquires i c) (ha : 0 < a.avail) : a.Change cfg c i (a.acquired (cfg.capacity.get c))
  | release (h : Half) (hi : Instr.releases i c h) (hf : a.releaseFault c (cfg.capacity.get c) h.toNat = none) :
      a.Change cfg c i (a.setPending h.toNat)
  | mark (bytes : Nat) (hi : Instr.marks i c)
      (hf : a.markFault c (cfg.capacity.get c) (cfg.frameBytes.get c) bytes = none) :
      a.Change cfg c i (a.markTail (cfg.capacity.get c) bytes)

theorem Table.Change.inv {cfg : Config} {a b : Table} (h : a.Change cfg c i b)
    (ha : a.Inv (cfg.capacity.get c) (cfg.frameBytes.get c)) : b.Inv (cfg.capacity.get c) (cfg.frameBytes.get c) := by
  cases h with
  | acquire hi hpos => exact (ha.acquire hpos).1
  | release h hi hf => exact ha.release hf
  | mark bytes hi hf => exact ha.mark hf

/-- A drain other than POLL_DRAIN's ends in an acquire. -/
theorem Instr.drains.acquires (h : Instr.drains i c) (hne : i ≠ .pollDrain c) : Instr.acquires i c :=
  .inr (h.resolve_left hne)

/-! ### What a step of a command leaves of `dev` -/

/-- What one step of command `i` leaves of `dev`: `dev` as it is, no tables, the fresh tables of an OPEN that succeeds, or
one table changed. -/
inductive State.DevStep (s : State) (i : Instr) : Dev → Prop
  | same : s.DevStep i s.dev
  | leave (d : Dev) (hd : ∀ tables, d ≠ .opened tables) : s.DevStep i d
  | construct (hash seed p) (hc : s.current = some ⟨.openDev hash seed, .opening p⟩) :
      s.DevStep i (.opened s.cfg.freshTables)
  | change (tables c p b) (hd : s.dev = .opened tables) (hc : s.current = some ⟨i, p⟩)
      (hb : (tables.get c).Change s.cfg c i b) : s.DevStep i (.opened (tables.set c b))

theorem State.DevStep.of_eq {d : Dev} (h : d = s.dev) : s.DevStep i d := h ▸ .same

theorem State.Reads.dev (h : s.Reads u) : u.dev = s.dev := by rw [h.1]

theorem State.writeRegister_dev {r : Reg} {off : Nat} {x : Half} (h : s.writeRegister r off x = .done () u) :
    u.dev = s.dev := by
  obtain ⟨-, -, -, -, hdev, -⟩ := State.writeRegister_sameBlock h
  exact hdev

theorem State.writeCtrl_dev {off : Nat} {x : Half} (h : s.writeCtrl c off x = .done () u) : u.dev = s.dev :=
  State.writeRegister_dev (r := .ctrl c) h

theorem State.mapDone_dev (s : State) (m : MapStep) : (s.mapDone m).dev = s.dev := by cases m <;> rfl

/-- The end of a successful OPEN constructs the tables of the configuration, which no step changes. -/
theorem State.DevStep.openEnd {hash : Word64} {seed : Half} {p : OpenPoint}
    (hc : s.current = some ⟨.openDev hash seed, .opening p⟩) (hu : u.cfg = s.cfg) (loaded : Bool) :
    s.DevStep i (u.openEnd loaded).dev := by
  show s.DevStep i (.opened u.cfg.freshTables)
  rw [hu]
  exact .construct hash seed p hc

theorem State.Move.devStep (h : s.Move i s') : s.DevStep i s'.dev := by
  cases h with
  | halt | stay | enter | enterOpen | enterClose | memWr8 | query | drainAck | waited | openMemWrite => exact .same
  | regRd | drainSeen | drainStatus | drainEnd | drainWait | clkRead | clkGot | openRead =>
    have hdev := ‹s.Reads _›.dev
    exact .of_eq hdev
  | memRd8 | openTest | openMemRead =>
    have hdev := ‹s.DrawsOnly _›.reads.dev
    exact .of_eq hdev
  | openMap hash seed m u h hu => exact .of_eq ((u.mapDone_dev m).trans hu.reads.dev)
  | regWr | clkWrite | clkDone | openWrite =>
    have hdev := State.writeRegister_dev ‹s.writeRegister _ _ _ = _›
    exact .of_eq hdev
  | relFirst | relOnly | relSecond =>
    have hdev := State.writeCtrl_dev ‹s.writeCtrl _ _ _ = _›
    exact .of_eq hdev
  | acqHead c tables v0 v1 hc hd ha => exact .change tables c _ _ hd hc (.acquire (.inl rfl) ha)
  | drainAcquire i c tables p u n v0 v1 hi hne hc hd hp hu ha =>
    exact .change tables c p _ hd hc (.acquire (hi.acquires hne) ha)
  | markRel c h tables hc hd hf => exact .change tables c _ _ hd hc (.release h (.inl rfl) hf)
  | relMark c h length tables hc hd hf => exact .change tables c _ _ hd hc (.release h (.inr ⟨length, rfl⟩) hf)
  | markTail c bytes tables v0 hc hd hf => exact .change tables c _ _ hd hc (.mark _ (.inr ⟨bytes, rfl⟩) hf)
  | drainMark i c tables n amount hi hc hd hf => exact .change tables c _ _ hd hc (.mark amount (.inl hi) hf)
  | close | openFail | openStart => exact .leave _ nofun
  | openTestEnd hash seed loaded u hc hu => exact .openEnd (u := u.testMapped) hc hu.frame.1 loaded
  | openMemWriteEnd hash seed loaded k b hc => exact .openEnd (u := s.storeByte .test k b) hc rfl loaded
  | openMemReadEnd hash seed loaded k u hc hu => exact .openEnd hc hu.frame.1 loaded

/-! ### Every step -/

theorem State.dmaStep_dev (h : s.dmaStep c = .next s') : s'.dev = s.dev := by
  rcases State.dmaStep_cases h with rfl | ⟨_, _, rfl⟩ | ⟨-, _, _, _, _, _, u, -, hu, rfl⟩ | ⟨-, _, _, _, _, u, -, hu, rfl⟩
  · rfl
  · rfl
  all_goals exact hu.reads.dev

theorem State.loaderStep_dev (h : s.loaderStep = .next s') : s'.dev = s.dev := by
  rcases State.loaderStep_cases h with rfl | ⟨hash, seed, -, rfl⟩
  · rfl
  · exact s.draw_dev

/-- A step of the machine leaves `dev` as it is, or is the step of a command of a host thread. -/
theorem step_devStep (h : step s = .next s') :
    s'.dev = s.dev ∨ ∃ t i, s.turn = .host t ∧ s.DevStep i s'.dev := by
  obtain ⟨-, hc, u, hu, rfl⟩ := step_next h
  rw [u.schedule_dev]
  rcases agentStep_cases (State.configOk_wf hc) hu with rfl | ⟨_, _, rfl⟩ | ⟨t, i, ht, -, hm⟩ | ⟨c, -, hd⟩ | ⟨-, rfl⟩ |
    ⟨-, hl⟩
  · exact .inl rfl
  · exact .inl rfl
  · exact .inr ⟨t, i, ht, hm.devStep⟩
  · exact .inl (State.dmaStep_dev hd)
  · exact .inl rfl
  · exact .inl (State.loaderStep_dev hl)

/-! ### INV1 to INV5 (42 R88) -/

theorem Config.freshTables_get (cfg : Config) (c : Chan) :
    cfg.freshTables.get c = Table.fresh (cfg.capacity.get c) (cfg.frameBytes.get c) := by
  cases c <;> rfl

theorem Config.freshTables_inv {cfg : Config} (hwf : cfg.wf = true) (c : Chan) :
    (cfg.freshTables.get c).Inv (cfg.capacity.get c) (cfg.frameBytes.get c) := by
  obtain ⟨hcapacity, -⟩ := of_decide_eq_true (Config.wf_chanOk hwf c)
  rw [Config.freshTables_get]
  exact Table.fresh_inv hcapacity

/-- The tables that a step of a command leaves satisfy 42 R88 where those before it did. -/
theorem State.DevStep.tablesInv {d : Dev} (h : s.DevStep i d) (hwf : s.cfg.wf = true) (hs : s.TablesInv)
    {tables : PerChan Table} (hd : d = .opened tables) (c : Chan) :
    (tables.get c).Inv (s.cfg.capacity.get c) (s.cfg.frameBytes.get c) := by
  cases h with
  | same => exact hs tables hd c
  | leave _ hn => exact absurd hd (hn tables)
  | construct =>
    cases hd
    exact Config.freshTables_inv hwf c
  | change old k p b ho hc hb =>
    cases hd
    rw [PerChan.get_set]
    split
    · next hk =>
      subst hk
      exact hb.inv (hs old ho c)
    · exact hs old ho c

/-- Settles O29: each of the three changes of a table keeps the invariant, and a table that OPEN constructs satisfies it. -/
theorem tablesKeepTheirInvariant : Obligations.TablesKeepTheirInvariant := by
  unfold Obligations.TablesKeepTheirInvariant
  refine ⟨fun s s' hs h tables hd c => ?_, fun cfg => Config.freshTables_inv⟩
  rw [(step_keepsForm h).cfg]
  rcases step_devStep h with hsame | ⟨t, i, -, hdev⟩
  · exact hs tables (hsame.symm.trans hd) c
  · obtain ⟨-, hc, -⟩ := step_next h
    exact hdev.tablesInv (State.configOk_wf hc) hs hd c

/-! ### Slots and cursors (42 R86, R89) -/

/-- A FREE slot is at the head while one is available (INV4 of 42 R88). -/
theorem Table.Inv.head_free {a : Table} {n frame : Nat} (h : a.Inv n frame) (ha : 0 < a.avail) :
    a.slots[a.head]? = some .free := by
  simpa [Nat.mod_eq_of_lt h.head_lt] using h.free_from_head 0 ha

/-- While `dev` is OPEN no thread is in OPEN past its first step, so a step of a command that leaves it OPEN changes at most
one table. -/
theorem State.DevStep.opened_cases {d : Dev} (h : s.DevStep i d) (hs : s.LifecycleInv) {tables tables' : PerChan Table}
    (hd : s.dev = .opened tables) (hd' : d = .opened tables') (c : Chan) :
    tables'.get c = tables.get c ∨
      ((∃ p, s.current = some ⟨i, p⟩) ∧ (tables.get c).Change s.cfg c i (tables'.get c)) := by
  cases h with
  | same => cases hd.symm.trans hd'; exact .inl rfl
  | leave _ hn => exact absurd hd' (hn tables')
  | construct hash seed p hc =>
    obtain ⟨-, hr⟩ := hs.tid_eq hc rfl
    obtain ⟨hopening, -⟩ := hs.at_opening hr
    cases hd.symm.trans hopening
  | change old k p b ho hc hb =>
    cases hd'
    cases hd.symm.trans ho
    by_cases hk : c = k
    · subst hk
      rw [PerChan.get_set_same]
      exact .inr ⟨⟨p, hc⟩, hb⟩
    · exact .inl (PerChan.get_set_ne _ hk _)

/-- Settles O41: the three changes of a table, each with the slot that its function asks for. -/
theorem slotsAndCursorsMoveInOrder : Obligations.SlotsAndCursorsMoveInOrder := by
  unfold Obligations.SlotsAndCursorsMoveInOrder
  intro s s' tables tables' c hs hinv h hd hd' a b n inCommand
  rcases step_devStep h with hsame | ⟨t, i, ht, hdev⟩
  · cases hd'.symm.trans (hsame.trans hd)
    exact .inl rfl
  rcases hdev.opened_cases hs hd hd' c with hkeep | ⟨⟨p, hr⟩, (hchange : a.Change s.cfg c i b)⟩
  · exact .inl hkeep
  rw [State.current, State.tid_of_host ht] at hr
  have hin {P : Instr → Prop} (hi : P i) : inCommand P := ⟨t, i, p, ht, hr, hi⟩
  clear_value b
  cases hchange with
  | acquire hi ha => exact .inr (.inl ⟨hin hi, ha, (hinv tables hd c).head_free ha, rfl⟩)
  | release k hi hf =>
    obtain ⟨-, hflight, -⟩ := Table.releaseFault_none hf
    exact .inr (.inr (.inl ⟨k, hin hi, hflight, rfl⟩))
  | mark bytes hi hf =>
    obtain ⟨-, hpending, hle⟩ := Table.markFault_none hf
    exact .inr (.inr (.inr ⟨bytes, hin hi, hle, hpending, rfl⟩))

end Sys2Proof.Machine
end

section
/-! PROOFS. The seven table commands (spec 42 R93 to R99), each at its one program point, over the outcomes of AcquireHead,
MarkReleased and MarkTail (42 R90 to R92). -/

namespace Sys2Proof.Machine

open Sys2Proof

variable {s : State} {i : Instr} {t n : Nat} {c : Chan} {h : Half} {tables : PerChan Table} {table : Table}
  {code : FaultCode} {info : FaultInfo}

/-! ### The three table functions, case by case -/

theorem Table.acquireHead_of_available (ha : 0 < table.avail) {len : Nat} (hl : table.lens[table.head]? = some len) :
    table.acquireHead n = some (table.head, len, table.afterAcquire n) := by
  rw [Table.acquireHead, if_neg (by omega), List.getD_eq_getElem?_getD, hl]
  rfl

theorem State.acquireAndFinish_of_empty (ht : s.turn = .host t) (ha : (tables.get c).avail = 0) (st : Status) :
    s.acquireAndFinish tables c st = .next (s.completes t st.code (some minusOne) (some 0)) := by
  rw [State.acquireAndFinish, Table.acquireHead_none.mpr ha]
  exact congrArg _ (State.finished_eq ht ..)

theorem State.acquireAndFinish_of_available (ht : s.turn = .host t) (ha : 0 < (tables.get c).avail) {len : Nat}
    (hl : (tables.get c).lens[(tables.get c).head]? = some len) (st : Status) :
    s.acquireAndFinish tables c st =
      .next ((s.withTable tables c ((tables.get c).afterAcquire (s.cfg.capacity.get c))).completes t 0x00
        (some (BitVec.ofNat 64 (tables.get c).head)) (some (BitVec.ofNat 64 len))) := by
  rw [State.acquireAndFinish, Table.acquireHead_of_available ha hl]
  exact congrArg _ ((s.setTable_sameHosts ..).finished ht ..)

theorem Table.releaseFault_of_not_inFlight {k : Nat} (hn : n ≤ k ∨ table.slots[k]? ≠ some .inFlight) :
    table.releaseFault c n k = some (.invalidHandle, .handle c k) := by
  unfold Table.releaseFault
  split
  · rfl
  · next hlt => rw [if_pos (hn.resolve_left hlt)]

theorem Table.releaseFault_of_inFlight {k : Nat} (hk : k < n) (hs : table.slots[k]? = some .inFlight) :
    table.releaseFault c n k =
      if k ≠ table.firstInFlight n then some (.releaseOrder, .order c k (table.firstInFlight n)) else none := by
  rw [Table.releaseFault, if_neg (by omega), if_neg (not_not.mpr hs)]

theorem State.markReleased_of_fault (ht : s.turn = .host t)
    (hf : (tables.get c).releaseFault c (s.cfg.capacity.get c) n = some (code, info)) (k : State → Result) :
    s.markReleased tables c n k = .next (s.faultBy t code info) := by
  rw [State.markReleased, hf, ← State.raised_of_host ht]
  rfl

theorem State.markReleased_of_pass (hf : (tables.get c).releaseFault c (s.cfg.capacity.get c) n = none)
    (k : State → Result) :
    s.markReleased tables c n k = k (s.withTable tables c ((tables.get c).afterRelease n)) := by
  rw [State.markReleased, hf]
  rfl

section
variable {frame bytes : Nat}

theorem Table.markFault_of_full (hn : table.avail = n) :
    table.markFault c n frame bytes = some (.tableOverflow, .chan c) := if_pos hn

theorem Table.markFault_of_not_pending (hn : table.avail ≠ n) {st : Slot} (hs : table.slots[table.tail]? = some st)
    (hp : st ≠ .pending) : table.markFault c n frame bytes = some (.completionOrder, .completion c table.tail st) := by
  rw [Table.markFault, if_neg hn, hs]
  cases st with
  | pending => exact absurd rfl hp
  | free | inFlight => rfl

theorem Table.markFault_of_pending (hn : table.avail ≠ n) (hs : table.slots[table.tail]? = some .pending) :
    table.markFault c n frame bytes = if frame < bytes then some (.lengthRange, .length c bytes) else none := by
  rw [Table.markFault, if_neg hn, hs]

theorem State.markTail_of_fault (ht : s.turn = .host t)
    (hf : (tables.get c).markFault c (s.cfg.capacity.get c) (s.cfg.frameBytes.get c) bytes = some (code, info))
    (k : Table → State → Result) : s.markTail tables c bytes k = .next (s.faultBy t code info) := by
  rw [State.markTail, hf, ← State.raised_of_host ht]
  rfl

theorem State.markTail_of_pass
    (hf : (tables.get c).markFault c (s.cfg.capacity.get c) (s.cfg.frameBytes.get c) bytes = none)
    (k : Table → State → Result) :
    s.markTail tables c bytes k =
      k ((tables.get c).afterMark (s.cfg.capacity.get c) bytes)
        (s.withTable tables c ((tables.get c).afterMark (s.cfg.capacity.get c) bytes)) := by
  rw [State.markTail, hf]
  rfl

end

/-! ### The commands that report (42 R93, R97 to R99) -/

/-- A step that completes its command and changes nothing else. -/
theorem State.OpenAt.next_finished {p : Point} (ho : s.OpenAt t i p tables) (v0 v1 : Option Word64) :
    (.next (s.finished .ok v0 v1) : Result) =
      .next (s.completes t 0x00 (orKeep v0 (s.thread t).rv0) (orKeep v1 (s.thread t).rv1)) :=
  congrArg _ (State.finished_eq ho.place.turn .ok v0 v1)

/-- TBL_OFFSET and TBL_BUFF of a handle outside the table (42 R97, R98). -/
theorem exec_of_handle_out_of_range (hi : i = .tblOffset c h ∨ i = .tblBuff c h) (ho : s.OpenAt t i .start tables)
    (hn : s.cfg.capacity.get c ≤ h.toNat) :
    exec i s = .next (s.faultBy t .invalidHandle (.handle c h.toNat)) := by
  rw [← State.raised_of_host ho.place.turn]
  rcases hi with rfl | rfl <;> exact (ho.simpleStep _).trans (if_pos hn)

theorem execTblOffset_of_lt (ho : s.OpenAt t (.tblOffset c h) .start tables) (hn : h.toNat < s.cfg.capacity.get c) :
    exec (.tblOffset c h) s =
      .next (s.completes t 0x00 (some (BitVec.ofNat 64 (s.cfg.frameOff c h.toNat))) (s.thread t).rv1) :=
  ((ho.simpleStep _).trans (if_neg (by omega))).trans (ho.next_finished _ none)

theorem execTblBuff_of_lt (ho : s.OpenAt t (.tblBuff c h) .start tables) (hn : h.toNat < s.cfg.capacity.get c) :
    exec (.tblBuff c h) s =
      .next (s.completes t 0x00 (some c.win.id) (some (BitVec.ofNat 64 (s.cfg.frameOff c h.toNat)))) :=
  ((ho.simpleStep _).trans (if_neg (by omega))).trans (ho.next_finished _ _)

/-- The number of a channel's window (42 R98). -/
theorem Chan.win_id (c : Chan) : c.win.id = if c.win = .framer then 0 else 1 := by cases c <;> decide

/-- Settles O37: a query is its entry step and then a `finish` or the fault of its handle. -/
theorem tableQueries : Obligations.TableQueries := by
  unfold Obligations.TableQueries
  intro s t c tables
  refine ⟨entryFaults_of_not_lifecycle rfl, entryFaults_of_not_lifecycle rfl,
    fun h => ⟨entryFaults_of_not_lifecycle rfl, entryFaults_of_not_lifecycle rfl⟩, fun ho => ?_, fun ho => ?_,
    fun h ho => ⟨exec_of_handle_out_of_range (.inl rfl) ho, execTblOffset_of_lt ho⟩,
    fun h ho => ⟨exec_of_handle_out_of_range (.inr rfl) ho, fun hn => ?_⟩⟩
  · exact (ho.simpleStep _).trans (ho.next_finished _ none)
  · exact (ho.simpleStep _).trans (ho.next_finished _ none)
  · rw [← Chan.win_id]
    exact execTblBuff_of_lt ho hn

/-! ### The commands that move a slot (42 R94 to R96) -/

/-- Settles O38: TBL_ACQ_HEAD is AcquireHead and its `finish`. -/
theorem acquireHeadCommand : Obligations.AcquireHeadCommand := by
  unfold Obligations.AcquireHeadCommand
  refine fun c => ⟨entryFaults_of_not_lifecycle rfl, ?_⟩
  intro s t tables ho table
  have hexec : exec (.tblAcqHead c) s = s.acquireAndFinish tables c .noneAvailable := ho.simpleStep _
  rw [hexec]
  exact ⟨fun ha => State.acquireAndFinish_of_empty ho.place.turn ha _,
    fun ha len hl => State.acquireAndFinish_of_available ho.place.turn ha hl _⟩

/-- Settles O39: TBL_MARK_REL is MarkReleased, whose checks are those of 42 R91. -/
theorem markReleasedCommand : Obligations.MarkReleasedCommand := by
  unfold Obligations.MarkReleasedCommand
  refine fun c h => ⟨entryFaults_of_not_lifecycle rfl, ?_⟩
  intro s t tables ho table n first
  have ht := ho.place.turn
  have hexec : exec (.tblMarkRel c h) s = s.markReleased tables c h.toNat fun u => u.finish .ok := ho.simpleStep _
  rw [hexec]
  refine ⟨fun hbad => ?_, fun hlt hslot hne => ?_, fun hlt hslot hfirst => ?_⟩
  · exact State.markReleased_of_fault ht (Table.releaseFault_of_not_inFlight hbad) _
  · exact State.markReleased_of_fault ht ((Table.releaseFault_of_inFlight hlt hslot).trans (if_pos hne)) _
  · have hpass : table.releaseFault c n h.toNat = none :=
      (Table.releaseFault_of_inFlight hlt hslot).trans (if_neg (not_not.mpr hfirst))
    rw [State.markReleased_of_pass hpass]
    exact congrArg _ ((s.setTable_sameHosts tables c _).finished ht .ok none none)

/-- Settles O40: TBL_MARK_TAIL is MarkTail, whose checks are those of 42 R92. -/
theorem markTailCommand : Obligations.MarkTailCommand := by
  unfold Obligations.MarkTailCommand
  refine fun c bytes => ⟨entryFaults_of_not_lifecycle rfl, ?_⟩
  intro s t tables ho table n
  have ht := ho.place.turn
  have hexec : exec (.tblMarkTail c bytes) s =
      s.markTail tables c bytes.toNat fun b u => u.finish1 .ok (BitVec.ofNat 64 b.avail) := ho.simpleStep _
  rw [hexec]
  refine ⟨fun hfull => State.markTail_of_fault ht (Table.markFault_of_full hfull) _, fun hne st hst => ⟨fun hn => ?_, ?_, ?_⟩⟩
  · exact State.markTail_of_fault ht (Table.markFault_of_not_pending hne hst hn) _
  · rintro rfl hlong
    exact State.markTail_of_fault ht ((Table.markFault_of_pending hne hst).trans (if_pos hlong)) _
  · rintro rfl hle
    rw [State.markTail_of_pass ((Table.markFault_of_pending hne hst).trans (if_neg (by omega)))]
    exact congrArg _ ((s.setTable_sameHosts tables c _).finished ht .ok _ none)

end Sys2Proof.Machine
end

section
/-! PROOFS. What CLOSE cuts off stays cut off until the device is open again (spec 60 R122), and the fabric queues are
empty from OPEN's reset pulse on (70 R139): the two invariants that a new OPEN rests on. -/

namespace Sys2Proof.Machine

open Sys2Proof

variable {s s' u : State} {i : Instr} {c : Chan}

/-! ### The end of OPEN -/

theorem State.LifecycleInv.current_ne_open (hs : s.LifecycleInv) (ho : s.IsOpen) (hash : Word64) (seed : Half)
    (p : Point) : s.current ≠ some ⟨.openDev hash seed, p⟩ := by
  intro hc
  obtain ⟨tables, hd⟩ := ho
  obtain ⟨-, hr⟩ := hs.tid_eq hc rfl
  obtain ⟨-, -, hclose⟩ := (State.lifecycleOk_opened hd).mp hs.2
  cases hclose _ _ hr rfl

/-- Of the commands only CLOSE ends OPEN. -/
theorem State.Move.isOpen_or_close (h : s.Move i s') (hs : s.LifecycleInv) (ho : s.IsOpen) :
    s'.IsOpen ∨ (s.current = some ⟨.closeDev, .start⟩ ∧ s' = s.cutOff.unwind.finished .ok none none) := by
  cases h with
  | close hc => exact .inr ⟨hc, rfl⟩
  | halt | stay | enter | enterOpen | enterClose | memWr8 | query | drainAck | waited => exact .inl ho
  | acqHead | markRel | markTail | drainMark | relMark | drainAcquire => exact .inl ⟨_, rfl⟩
  | regRd | drainSeen | drainStatus | drainEnd | drainWait | clkRead | clkGot =>
    have hu := ‹s.Reads _›.keepsOpen ho
    exact .inl hu.isOpen'
  | memRd8 =>
    have hu := ‹s.DrawsOnly _›.reads.keepsOpen ho
    exact .inl hu.isOpen'
  | regWr | clkWrite | clkDone =>
    have hu := State.writeRegister_keepsOpen ‹s.writeRegister _ _ _ = _› ho
    exact .inl hu.isOpen'
  | relFirst | relOnly | relSecond =>
    have hu := State.writeCtrl_keepsOpen ‹s.writeCtrl _ _ _ = _› ho
    exact .inl hu.isOpen'
  | _ => exact absurd ‹s.current = some _› (hs.current_ne_open ho _ _ _)

/-! ### Commands that are cut off (60 R122) -/

/-- Every command in progress other than OPEN and CLOSE has been cut off. -/
def State.AllCut (s : State) : Prop :=
  ∀ t i p, (s.thread t).running = some ⟨i, p⟩ → i.isLifecycle = false → p = .cut

theorem State.cutOffInv_iff : s.CutOffInv ↔ (¬ s.IsOpen → s.AllCut) := Iff.rfl

theorem State.AllCut.of_threads (h : s.AllCut) (hu : u.threads = s.threads) : u.AllCut := by
  intro t j p hr
  rw [State.thread_congr hu] at hr
  exact h t j p hr

theorem State.cutOff_allCut (s : State) : s.cutOff.AllCut := by
  intro t j p hr hl
  rw [State.cutOff_thread] at hr
  rcases Thread.cutOff_cases hr with ⟨-, hlife⟩ | ⟨-, hp, -⟩
  · cases hl.symm.trans hlife
  · exact hp

theorem State.AllCut.finished (h : s.AllCut) (st : Status) (v0 v1 : Option Word64) : (s.finished st v0 v1).AllCut := by
  intro t j p hr
  rcases State.running_setThread_cases hr with hr | hr
  · cases hr
  · exact h t j p hr

theorem State.AllCut.goto (h : s.AllCut) (hi : i.isLifecycle = true) (p : Point) : (s.goto i p).AllCut := by
  intro t j q hr hl
  rcases State.running_setThread_cases hr with hr | hr
  · cases hr
    cases hl.symm.trans hi
  · exact h t j q hr hl

/-- While `dev` is not OPEN, a command other than OPEN and CLOSE moves no thread on. -/
theorem State.Move.threads_of_not_open (h : s.Move i s') (hl : i.isLifecycle = false) (hn : ¬ s.IsOpen) :
    s'.threads = s.threads := by
  cases h with
  | halt | stay => rfl
  | enterOpen | enterClose | close | openStart | openMap | openFail | openRead | openWrite | openTest | openTestEnd |
    openMemWrite | openMemWriteEnd | openMemRead | openMemReadEnd => cases hl
  | _ => exact absurd ⟨_, ‹s.dev = .opened _›⟩ hn

/-- While `dev` is not OPEN, no step of a command takes another one past the point at which it was cut off. -/
theorem State.Move.allCut (h : s.Move i s') (hn : ¬ s.IsOpen) (hs : s.AllCut) : s'.AllCut := by
  cases hl : i.isLifecycle with
  | false => exact hs.of_threads (h.threads_of_not_open hl hn)
  | true =>
    cases h.effect with
    | stay u hu => exact hs.of_threads hu.hosts.threads
    | goto u p hu => exact (hs.of_threads hu.hosts.threads).goto hl p
    | finish u st v0 v1 hu => exact (hs.of_threads hu.hosts.threads).finished st v0 v1
    | close u hu hc => exact u.cutOff_allCut.finished .ok none none

theorem State.Move.cutOffInv (h : s.Move i s') (hs : s.LifecycleInv) (hcut : s.CutOffInv) : s'.CutOffInv := by
  rw [State.cutOffInv_iff] at hcut ⊢
  intro hn
  by_cases ho : s.IsOpen
  · rcases h.isOpen_or_close hs ho with ho' | ⟨-, rfl⟩
    · exact absurd ho' hn
    · exact State.AllCut.finished (s.cutOff_allCut.of_threads rfl) .ok none none
  · exact h.allCut ho (hcut ho)

theorem State.CutOffInv.of_same (h : s.CutOffInv) (hth : u.threads = s.threads) (hd : u.dev = s.dev) : u.CutOffInv := by
  rw [State.cutOffInv_iff, State.IsOpen, hd]
  exact fun hn => State.AllCut.of_threads (h hn) hth

theorem agentStep_cutOffInv (hwf : s.cfg.wf = true) (hs : s.LifecycleInv) (hcut : s.CutOffInv)
    (h : agentStep s = .next s') : s'.CutOffInv := by
  rcases agentStep_cases hwf h with rfl | ⟨_, _, rfl⟩ | ⟨_, _, -, -, hm⟩ | ⟨c, -, hd⟩ | ⟨-, rfl⟩ | ⟨-, hl⟩
  · exact hcut
  · exact hcut.of_same rfl rfl
  · exact hm.cutOffInv hs hcut
  · exact hcut.of_same (State.dmaStep_sameHosts hd).threads (State.dmaStep_dev hd)
  · exact hcut.of_same rfl rfl
  · rcases State.loaderStep_cases hl with rfl | ⟨hash, seed, hr, rfl⟩
    · exact hcut
    · have hload : s.load.CutOffInv := hcut.of_same s.load_sameHosts.threads s.draw_dev
      obtain ⟨hopening, -⟩ := hs.at_opening hr
      refine fun hn t j p hj hnl => ?_
      rcases State.running_setThread_cases hj with hj | hj
      · cases hj
        cases hnl
      · exact hload hn t j p hj hnl

/-! ### The queues from the reset pulse on (70 R139) -/

/-- The fabric queues are empty, and no start offset is stored. -/
def State.QueuesEmpty (s : State) : Prop := s.descQ = .all [] ∧ s.cmplQ = .all [] ∧ s.mm2sStart = .all none

theorem State.DrawsOnly.queuesEmpty (h : s.DrawsOnly u) (hs : s.QueuesEmpty) : u.QueuesEmpty := by
  rw [h]
  exact hs

theorem State.Reads.queuesEmpty (h : s.Reads u) (hs : s.QueuesEmpty) : u.QueuesEmpty := by
  rw [h.1]
  exact hs

/-- OPEN's writes leave the queues empty, and its reset pulse empties them. -/
theorem State.queuesEmpty_of_openWrite {r : Reg} {off : Nat} {x : Half} (hr : r = .reset ∨ r = .loopback)
    (hw : s.writeRegister r off x = .done () u) (hs : s.QueuesEmpty ∨ (r = .reset ∧ x = 1)) : u.QueuesEmpty := by
  rcases hr with rfl | rfl
  · rcases State.writeReset_cases hw with ⟨-, rfl⟩ | ⟨h0, rfl⟩
    · exact ⟨rfl, rfl, rfl⟩
    · rcases hs with hs | ⟨-, h1⟩
      · exact hs
      · cases h1.symm.trans h0
  · cases hw
    exact hs.resolve_right nofun

/-- Thread 0's OPEN, moved on, is at the point that it was moved to. -/
theorem State.LifecycleInv.goto_point (hs : s.LifecycleInv) {hash hash' : Word64} {seed seed' : Half} {p q r : Point}
    (hc : s.current = some ⟨.openDev hash seed, p⟩) (hu : s.SameHosts u)
    (hr : ((u.goto (.openDev hash seed) q).thread 0).running = some ⟨.openDev hash' seed', r⟩) : r = q := by
  obtain ⟨ht, hr0⟩ := hs.tid_eq hc rfl
  have hlt : 0 < u.threads.length := hu.threads ▸ State.lt_threads_of_running hr0
  rw [State.goto_eq_putAt (hu.tid.trans ht), State.putAt, State.thread_setThread_same u _ hlt] at hr
  cases hr
  rfl

theorem State.QuietOpenInv.at_point (hq : s.QuietOpenInv) (hs : s.LifecycleInv) {hash : Word64} {seed : Half}
    {p : OpenPoint} (hc : s.current = some ⟨.openDev hash seed, .opening p⟩) (hp : p.afterReset = true) :
    s.QueuesEmpty := by
  obtain ⟨-, hr⟩ := hs.tid_eq hc rfl
  exact hq hash seed p (hs.at_opening hr).1 hr hp

/-- An OPEN that ends with `dev` OPEN leaves the queues empty. -/
theorem State.Move.queuesEmpty_of_opens (h : s.Move i s') (hs : s.LifecycleInv) (hq : s.QuietOpenInv)
    (hn : ¬ s.IsOpen) (ho : s'.IsOpen) : s'.QueuesEmpty := by
  obtain ⟨tables, hd⟩ := ho
  cases h with
  | halt | stay => exact absurd ⟨tables, hd⟩ hn
  | openTestEnd hash seed l u hc hu => exact hu.queuesEmpty (hq.at_point hs hc rfl)
  | openMemWriteEnd hash seed l k b hc => exact hq.at_point hs hc rfl
  | openMemReadEnd hash seed l k u hc hu => exact hu.queuesEmpty (hq.at_point hs hc rfl)
  | close | openStart | openFail => cases hd
  | enterOpen => exact absurd ⟨tables, hd⟩ hn
  | openMap hash seed m u hc hu => exact absurd ⟨tables, ((u.mapDone_dev m).trans hu.reads.dev).symm.trans hd⟩ hn
  | openRead =>
    have hdev := ‹s.Reads _›.dev
    exact absurd ⟨tables, hdev.symm.trans hd⟩ hn
  | openWrite =>
    have hdev := State.writeRegister_dev ‹s.writeRegister _ _ _ = _›
    exact absurd ⟨tables, hdev.symm.trans hd⟩ hn
  | openMemWrite => exact absurd ⟨tables, hd⟩ hn
  | openTest | openMemRead =>
    have hdev := ‹s.DrawsOnly _›.reads.dev
    exact absurd ⟨tables, hdev.symm.trans hd⟩ hn
  | _ => exact absurd ⟨_, ‹s.dev = .opened _›⟩ hn

theorem State.QuietOpenInv.of_same (h : s.QuietOpenInv) (hth : u.threads = s.threads) (hd : u.dev = s.dev)
    (hq : s.QueuesEmpty → u.QueuesEmpty) : u.QuietOpenInv := by
  intro hash seed p hopening hr hp
  rw [State.thread_congr hth] at hr
  exact hq (h hash seed p (hd.symm.trans hopening) hr hp)

/-- OPEN goes on to a point from which the queues are empty only if they are. -/
theorem State.Move.quietOpenInv (h : s.Move i s') (hs : s.LifecycleInv) (hq : s.QuietOpenInv) : s'.QuietOpenInv := by
  intro hash' seed' q' hd hr hp
  by_cases ho : s.IsOpen
  · rcases h.isOpen_or_close hs ho with ⟨tables, hd'⟩ | ⟨-, rfl⟩
    · cases hd.symm.trans hd'
    · cases hd
  cases h with
  | halt | stay => exact hq hash' seed' q' hd hr hp
  | enterOpen hash seed hc ht hclosed => cases hd.symm.trans hclosed
  | openStart hash seed hc =>
    cases hs.goto_point (u := { s with dev := .opening }) hc ⟨rfl, rfl, rfl⟩ hr
    cases hp
  | openMap hash seed m u hc hu =>
    cases hs.goto_point hc (hu.sameHosts.trans (u.mapDone_sameHosts m)) hr
    cases m <;> cases hp
  | openRead hash seed p q u hc hu he hm hen ha =>
    cases hs.goto_point hc hu.sameHosts hr
    exact hu.queuesEmpty (hq.at_point hs hc (ha.symm.trans hp))
  | openWrite hash seed p q r x u hc he hreg hu hm hen ha =>
    have hempty := State.queuesEmpty_of_openWrite hreg hu (ha.imp_left (hq.at_point hs hc))
    exact hempty
  | openTest hash seed l u hc hu => exact hu.queuesEmpty (hq.at_point hs hc rfl)
  | openMemWrite hash seed l k b q hc => exact hq.at_point hs hc rfl
  | openMemRead hash seed l k j u hc hu => exact hu.queuesEmpty (hq.at_point hs hc rfl)
  | close | openFail | openTestEnd | openMemWriteEnd | openMemReadEnd => cases hd
  | _ => exact absurd ⟨_, ‹s.dev = .opened _›⟩ ho

/-- A DMA engine has nothing to do while its queue is empty. -/
theorem State.dmaStep_queuesEmpty (h : s.dmaStep c = .next s') (hs : s.QueuesEmpty) : s'.QueuesEmpty := by
  have hempty : s.descQ.get c = [] := by rw [hs.1, PerChan.get_all]
  rw [State.dmaStep_of_disabled (.inr (.inr hempty))] at h
  cases h
  exact hs

theorem agentStep_quietOpenInv (hwf : s.cfg.wf = true) (hs : s.LifecycleInv) (hq : s.QuietOpenInv)
    (h : agentStep s = .next s') : s'.QuietOpenInv := by
  rcases agentStep_cases hwf h with rfl | ⟨_, _, rfl⟩ | ⟨_, _, -, -, hm⟩ | ⟨c, -, hd⟩ | ⟨-, rfl⟩ | ⟨-, hl⟩
  · exact hq
  · exact hq.of_same rfl rfl id
  · exact hm.quietOpenInv hs hq
  · exact hq.of_same (State.dmaStep_sameHosts hd).threads (State.dmaStep_dev hd) (State.dmaStep_queuesEmpty hd)
  · exact hq.of_same rfl rfl id
  · rcases State.loaderStep_cases hl with rfl | ⟨hash, seed, -, rfl⟩
    · exact hq
    · exact fun _ _ _ _ _ _ => ⟨rfl, rfl, rfl⟩

end Sys2Proof.Machine
end

section
/-! PROOFS. The correspondence of 43 R108 by where the channel's owner is: in its own words while no completion and no
release is part-way (`State.Calm`), between MarkTail and the acknowledgement (`State.Acking`), and between MarkReleased and
the last CTRLc write (`State.Handing`); and how each of the operations leads from one to the next. -/

namespace Sys2Proof.Machine

open Sys2Proof

variable {s s' u : State} {i : Instr} {c d : Chan} {t t' : Table} {r : Running} {h : Half}

/-! ### The owner's command -/

/-- A command in progress that has no completion of channel `c` marked and not acknowledged, and no handle of it made
PENDING and not handed over. -/
structure Running.Calm (r : Running) (c : Chan) : Prop where
  handing : r.handing c = none
  unacked : r.unacked c = 0
  halfProgrammed : ∀ cfg, r.halfProgrammed cfg c = none

/-- The program points of a channel's command at which it is not part-way through a completion or a release. -/
def Point.calm : Point → Bool
  | .relStart => false
  | .relEnd => false
  | .drain (.ack _) => false
  | _ => true

theorem Running.calm_of_point (hr : r.instr.ownedChan = some c → r.point.calm = true) : r.Calm c where
  handing := by
    unfold Running.handing
    split
    · exact if_neg fun e => Bool.false_ne_true (hr (congrArg some e))
    · exact if_neg fun e => Bool.false_ne_true (hr (congrArg some e))
    · rfl
  unacked := by
    unfold Running.unacked
    split
    · next n hp => exact if_neg fun e => Bool.false_ne_true ((congrArg Point.calm hp).symm.trans (hr e))
    · rfl
  halfProgrammed cfg := by
    unfold Running.halfProgrammed
    split
    · exact if_neg fun e => Bool.false_ne_true (hr (congrArg some e))
    · rfl

theorem Running.handing_drain (i : Instr) (e : DrainPoint) : Running.handing ⟨i, .drain e⟩ c = none := by
  cases i <;> rfl

theorem Running.halfProgrammed_drain (i : Instr) (e : DrainPoint) (cfg : Config) :
    Running.halfProgrammed ⟨i, .drain e⟩ cfg c = none := by
  cases i <;> rfl

theorem Running.holdsCompletion_of_not_owned (hi : r.instr.ownedChan ≠ some c) : r.holdsCompletion c = false := by
  unfold Running.holdsCompletion
  split
  · exact decide_eq_false hi
  · exact decide_eq_false hi
  · exact decide_eq_false hi
  · rfl

/-- The owner of channel `c` is in no command, or in one that is calm. -/
def State.Calm (s : State) (c : Chan) : Prop := ∀ r, s.ownerRunning c = some r → r.Calm c

/-- A drain of the channel that has seen a completion finds it in the queue. -/
def State.SeesCompletion (s : State) (c : Chan) : Prop :=
  ∀ r, s.ownerRunning c = some r → r.holdsCompletion c = true → s.cmplQ.get c ≠ []

theorem State.Calm.eqs (h : s.Calm c) : s.handing c = none ∧ s.unacked c = 0 ∧
    (s.ownerRunning c).bind (fun r => r.halfProgrammed s.cfg c) = none := by
  unfold State.handing State.unacked
  cases hr : s.ownerRunning c with
  | none => exact ⟨rfl, rfl, rfl⟩
  | some r => exact ⟨(h r hr).handing, (h r hr).unacked, (h r hr).halfProgrammed s.cfg⟩

/-! ### The four forms of the correspondence -/

/-- The descriptors of channel `c` are those of the slots from place `k` of the ring on. -/
def State.DescsFrom (s : State) (c : Chan) (k : Nat) : Prop :=
  ∀ j d, (s.descQ.get c)[j]? = some d → d.first.toNat = s.cfg.frameOff c ((k + j) % s.cfg.capacity.get c)

/-- Between MarkTail and its acknowledgement: the oldest completion is still queued, and its slot FREE already. -/
structure State.Acking (s : State) (c : Chan) (t : Table) : Prop where
  start : s.mm2sStart.get c = none
  counts : t.pendingCount + 1 = (s.descQ.get c).length + (s.cmplQ.get c).length
  queued : s.cmplQ.get c ≠ []
  order : s.DescsFrom c (t.tail + ((s.cmplQ.get c).length - 1))

/-- Between MarkReleased of handle `h` and the last CTRLc write: the last PENDING slot has no descriptor yet. -/
structure State.Handing (s : State) (c : Chan) (t : Table) (h : Half) : Prop where
  counts : t.pendingCount = (s.descQ.get c).length + (s.cmplQ.get c).length + 1
  order : s.DescsFrom c (t.tail + (s.cmplQ.get c).length)
  handed : h.toNat = (t.tail + t.pendingCount - 1) % s.cfg.capacity.get c

theorem State.corresponds_iff_inStep (hcalm : s.Calm c) :
    s.Corresponds c t ↔ s.InStep c t ∧ s.SeesCompletion c := by
  obtain ⟨hhanding, hunacked, hhalf⟩ := hcalm.eqs
  constructor
  · rintro ⟨hcounts, hstart, hholds, horder, -⟩
    rw [hhanding, hunacked] at hcounts
    rw [hunacked] at horder
    exact ⟨⟨hstart.trans hhalf, hcounts, horder⟩, hholds⟩
  · rintro ⟨⟨hstart, hcounts, horder⟩, hsees⟩
    constructor
    · rw [hhanding, hunacked]
      exact hcounts
    · exact hstart.trans hhalf.symm
    · exact hsees
    · rw [hunacked]
      exact horder
    · rw [hhanding]
      exact nofun

theorem State.corresponds_iff_acking {n : Nat} (hr : s.ownerRunning c = some ⟨i, .drain (.ack n)⟩)
    (hi : i.ownedChan = some c) : s.Corresponds c t ↔ s.Acking c t := by
  have hhanding : s.handing c = none := by
    rw [State.handing, hr, Option.bind_some, Running.handing_drain]
  have hunacked : s.unacked c = 1 := by
    rw [State.unacked, hr]
    exact if_pos hi
  have hhalf : (s.ownerRunning c).bind (fun r => r.halfProgrammed s.cfg c) = none := by
    rw [hr, Option.bind_some, Running.halfProgrammed_drain]
  constructor
  · rintro ⟨hcounts, hstart, hholds, horder, -⟩
    rw [hhanding, hunacked] at hcounts
    rw [hunacked] at horder
    exact ⟨hstart.trans hhalf, hcounts, hholds _ hr (decide_eq_true hi), horder⟩
  · rintro ⟨hstart, hcounts, hqueued, horder⟩
    constructor
    · rw [hhanding, hunacked]
      exact hcounts
    · exact hstart.trans hhalf.symm
    · exact fun _ _ _ => hqueued
    · rw [hunacked]
      exact horder
    · rw [hhanding]
      exact nofun

/-- CH_RELEASE before its first CTRLc write has stored no start offset yet, and before its second the frame's. -/
theorem State.corresponds_iff_handing {len : Word64} {p : Point}
    (hr : s.ownerRunning c = some ⟨.chRelease c h len, p⟩) (hp : p = .relStart ∨ p = .relEnd) :
    s.Corresponds c t ↔ s.Handing c t h ∧
      s.mm2sStart.get c = Running.halfProgrammed ⟨.chRelease c h len, p⟩ s.cfg c := by
  have hhanding : s.handing c = some h := by
    rw [State.handing, hr]
    rcases hp with rfl | rfl <;> exact if_pos rfl
  have hunacked : s.unacked c = 0 := by
    rw [State.unacked, hr]
    rcases hp with rfl | rfl <;> rfl
  have hhalf : (s.ownerRunning c).bind (fun r => r.halfProgrammed s.cfg c) =
      Running.halfProgrammed ⟨.chRelease c h len, p⟩ s.cfg c := by rw [hr]; rfl
  have hholds : Running.holdsCompletion ⟨.chRelease c h len, p⟩ c = false := by
    rcases hp with rfl | rfl <;> rfl
  constructor
  · rintro ⟨hcounts, hstart, -, horder, hhanded⟩
    rw [hhanding, hunacked] at hcounts
    rw [hunacked] at horder
    exact ⟨⟨hcounts, horder, hhanded h hhanding⟩, hstart.trans hhalf⟩
  · rintro ⟨⟨hcounts, horder, hhanded⟩, hstart⟩
    constructor
    · rw [hhanding, hunacked]
      exact hcounts
    · exact hstart.trans hhalf.symm
    · intro r hr' hh
      cases hr.symm.trans hr'
      cases hh.symm.trans hholds
    · rw [hunacked]
      exact horder
    · intro h' e
      cases hhanding.symm.trans e
      exact hhanded

/-! ### What the correspondence reads -/

/-- `u` has the configuration of `s` and the fabric's state of channel `c`. -/
structure State.SameChan (s u : State) (c : Chan) : Prop where
  cfg : u.cfg = s.cfg
  descQ : u.descQ.get c = s.descQ.get c
  cmplQ : u.cmplQ.get c = s.cmplQ.get c
  start : u.mm2sStart.get c = s.mm2sStart.get c

theorem State.SameChan.refl (s : State) (c : Chan) : s.SameChan s c := ⟨rfl, rfl, rfl, rfl⟩

/-- Two tables with the same PENDING slots for the correspondence: as many of them, from the same tail on. -/
structure Table.SamePending (t t' : Table) : Prop where
  count : t'.pendingCount = t.pendingCount
  tail : t'.tail = t.tail

theorem Table.SamePending.refl (t : Table) : t.SamePending t := ⟨rfl, rfl⟩

theorem State.DescsFrom.of_same {k : Nat} (hs : s.DescsFrom c k) (hu : s.SameChan u c) : u.DescsFrom c k := by
  unfold State.DescsFrom
  rw [hu.cfg, hu.descQ]
  exact hs

theorem State.InStep.of_same (hs : s.InStep c t) (hu : s.SameChan u c) (ht : t.SamePending t') : u.InStep c t' := by
  unfold State.InStep
  rw [hu.cfg, hu.descQ, hu.cmplQ, hu.start, ht.count, ht.tail]
  exact hs

theorem State.Corresponds.of_same (hs : s.Corresponds c t) (hu : s.SameChan u c)
    (hr : u.ownerRunning c = s.ownerRunning c) : u.Corresponds c t := by
  obtain ⟨hcounts, hstart, hholds, horder, hhanded⟩ := hs
  constructor
  · rw [State.handing, State.unacked, hr, hu.descQ, hu.cmplQ]
    exact hcounts
  · rw [hr, hu.start, hu.cfg]
    exact hstart
  · rw [hr, hu.cmplQ]
    exact hholds
  · rw [State.unacked, hr, hu.descQ, hu.cmplQ, hu.cfg]
    exact horder
  · rw [State.handing, hr, hu.cfg]
    exact hhanded

theorem State.DescsFrom.congr {k k' : Nat} (hs : s.DescsFrom c k)
    (hk : k' % s.cfg.capacity.get c = k % s.cfg.capacity.get c) : s.DescsFrom c k' := by
  intro j d hd
  rw [hs j d hd, Nat.add_mod k', hk, ← Nat.add_mod]

/-! ### The operations -/

/-- MarkTail of the oldest completion (42 R92; 44 R110). -/
theorem State.InStep.mark {n bytes : Nat} (hs : s.InStep c t) (hq : s.cmplQ.get c ≠ [])
    (hp : t.slots[t.tail]? = some .pending) (hu : s.SameChan u c) (hn : n = s.cfg.capacity.get c) :
    u.Acking c (t.markTail n bytes) := by
  obtain ⟨hstart, hcounts, horder⟩ := hs
  have hlen := List.length_pos_iff.mpr hq
  have hcount := Table.markTail_count (n := n) (bytes := bytes) hp
  subst hn
  constructor
  · exact hu.start.trans hstart
  · rw [hcount, hu.descQ, hu.cmplQ, hcounts]
  · rw [hu.cmplQ]
    exact hq
  · refine State.DescsFrom.of_same (State.DescsFrom.congr (k := t.tail + (s.cmplQ.get c).length) horder ?_) hu
    rw [hu.cmplQ]
    show ((t.tail + 1) % _ + _) % _ = _
    rw [Nat.mod_add_mod]
    congr 1
    omega

/-- The acknowledgement of the marked completion (44 R109, R110). -/
theorem State.Acking.ack (hs : s.Acking c t) (hcfg : u.cfg = s.cfg) (hd : u.descQ.get c = s.descQ.get c)
    (hq : u.cmplQ.get c = (s.cmplQ.get c).tail) (hm : u.mm2sStart.get c = s.mm2sStart.get c) : u.InStep c t := by
  have hlen := List.length_pos_iff.mpr hs.queued
  have hcounts := hs.counts
  have horder := hs.order
  refine ⟨hm.trans hs.start, ?_, ?_⟩
  · rw [hd, hq, List.length_tail]
    omega
  · rw [hcfg, hd, hq, List.length_tail]
    exact horder

/-- MarkReleased of the oldest IN_FLIGHT slot (42 R91; 43 R102). -/
theorem State.InStep.release {k : Chan} (hs : s.InStep c t) (hu : s.SameChan u c)
    (hf : t.releaseFault k (s.cfg.capacity.get c) h.toNat = none) : u.Handing c (t.setPending h.toNat) h := by
  obtain ⟨-, hcounts, horder⟩ := hs
  obtain ⟨-, hin, hpos⟩ := Table.releaseFault_none hf
  have hcount := Table.setPending_count hin
  constructor
  · rw [hcount, hu.descQ, hu.cmplQ, hcounts]
  · rw [hu.cmplQ]
    exact State.DescsFrom.of_same (k := t.tail + (s.cmplQ.get c).length) horder hu
  · rw [hcount, hu.cfg]
    exact hpos

theorem State.Handing.of_same (hs : s.Handing c t h) (hcfg : u.cfg = s.cfg) (hd : u.descQ.get c = s.descQ.get c)
    (hq : u.cmplQ.get c = s.cmplQ.get c) : u.Handing c t h := by
  obtain ⟨hcounts, horder, hhanded⟩ := hs
  constructor
  · rw [hd, hq]
    exact hcounts
  · unfold State.DescsFrom
    rw [hcfg, hd, hq]
    exact horder
  · rw [hcfg]
    exact hhanded

/-- The handed-over slot's descriptor is appended, and the tables are in step with the queues again (43 R102, R104). -/
theorem State.Handing.enqueue {d : Desc} (hs : s.Handing c t h) (hcfg : u.cfg = s.cfg)
    (hd : u.descQ.get c = s.descQ.get c ++ [d]) (hq : u.cmplQ.get c = s.cmplQ.get c) (hm : u.mm2sStart.get c = none)
    (hfirst : d.first.toNat = s.cfg.frameOff c h.toNat) : u.InStep c t := by
  obtain ⟨hcounts, horder, hhanded⟩ := hs
  refine ⟨hm, ?_, fun j e he => ?_⟩
  · rw [hd, hq, List.length_append, List.length_singleton]
    omega
  · rw [hd, List.getElem?_append] at he
    rw [hcfg, hq]
    split at he
    · exact horder j e he
    · obtain ⟨hj, rfl⟩ : j = (s.descQ.get c).length ∧ d = e := by
        rw [List.getElem?_singleton] at he
        split at he
        · cases he
          exact ⟨by omega, rfl⟩
        · cases he
      rw [hfirst, hhanded]
      congr 2
      omega

theorem State.Corresponds.unacked_le (hs : s.Corresponds c t) : s.unacked c ≤ (s.cmplQ.get c).length := by
  obtain ⟨-, -, hholds, -, -⟩ := hs
  unfold State.unacked
  cases hr : s.ownerRunning c with
  | none => exact Nat.zero_le _
  | some r =>
    show r.unacked c ≤ _
    unfold Running.unacked
    split
    · next n hp =>
      split
      · next hi =>
        refine List.length_pos_iff.mpr (hholds r hr ?_)
        rw [Running.holdsCompletion, hp]
        exact decide_eq_true hi
      · exact Nat.zero_le _
    · exact Nat.zero_le _

/-- A DMA engine takes the oldest descriptor and posts its completion (43 R106, R107). -/
theorem State.Corresponds.dma {d : Desc} {rest : List Desc} {count : Half} (hs : s.Corresponds c t)
    (hhead : s.descQ.get c = d :: rest) (hcfg : u.cfg = s.cfg) (hr : u.ownerRunning c = s.ownerRunning c)
    (hd : u.descQ.get c = rest) (hq : u.cmplQ.get c = s.cmplQ.get c ++ [count])
    (hm : u.mm2sStart.get c = s.mm2sStart.get c) : u.Corresponds c t := by
  have hunacked := hs.unacked_le
  obtain ⟨hcounts, hstart, hholds, horder, hhanded⟩ := hs
  have hu : u.unacked c = s.unacked c := by rw [State.unacked, hr, State.unacked]
  have hh : u.handing c = s.handing c := by rw [State.handing, hr, State.handing]
  constructor
  · rw [hhead, List.length_cons] at hcounts
    rw [hu, hh, hd, hq, List.length_append, List.length_singleton]
    omega
  · rw [hr, hm, hcfg]
    exact hstart
  · rw [hq]
    exact fun _ _ _ => List.append_ne_nil_of_right_ne_nil _ (List.cons_ne_nil _ _)
  · intro j e he
    rw [hd] at he
    have hj := horder (j + 1) e (by rw [hhead]; exact he)
    rw [hj, hcfg, hu, hq, List.length_append, List.length_singleton]
    congr 2
    omega
  · rw [hh, hcfg]
    exact hhanded

end Sys2Proof.Machine
end

section
/-! PROOFS. Every step from an OPEN device keeps the correspondence of 43 R108, by whose command steps: the other commands
leave what the correspondence reads, and each step of the channel's own leads from one of its forms to the next. -/

namespace Sys2Proof.Machine

open Sys2Proof

variable {s s' u : State} {i : Instr} {c : Chan} {t : Table}

/-! ### The fabric's state of a channel -/

theorem State.DrawsOnly.sameChan (h : s.DrawsOnly u) (c : Chan) : s.SameChan u c := by
  rw [h]
  exact ⟨rfl, rfl, rfl, rfl⟩

theorem State.Reads.sameChan (h : s.Reads u) (c : Chan) : s.SameChan u c := by
  rw [h.1]
  exact ⟨rfl, rfl, rfl, rfl⟩

theorem State.SameChan.trans {v : State} (h : s.SameChan u c) (k : u.SameChan v c) : s.SameChan v c :=
  ⟨k.cfg.trans h.cfg, k.descQ.trans h.descQ, k.cmplQ.trans h.cmplQ, k.start.trans h.start⟩

theorem State.SameChan.setTable (h : s.SameChan u c) (tables : PerChan Table) (d : Chan) (t : Table) :
    s.SameChan (u.setTable tables d t) c := ⟨h.cfg, h.descQ, h.cmplQ, h.start⟩

theorem State.writeCtrl_sameChan {d : Chan} {off : Nat} {x : Half} (hw : s.writeCtrl d off x = .done () u) (hne : c ≠ d) :
    s.SameChan u c := by
  obtain ⟨-, ⟨-, -, rfl⟩ | ⟨first, -, -, -, rfl⟩ | ⟨-, -, rfl⟩⟩ := State.writeCtrl_cases hw
  · exact ⟨rfl, rfl, rfl, PerChan.get_set_ne _ hne _⟩
  · exact ⟨rfl, PerChan.get_set_ne _ hne _, rfl, PerChan.get_set_ne _ hne _⟩
  · exact ⟨rfl, PerChan.get_set_ne _ hne _, rfl, rfl⟩

/-- The register writes that touch channel `c` in the fabric are those of its CTRLc and STATUSc and the reset. -/
theorem State.writeRegister_sameChan {r : Reg} {off : Nat} {x : Half} (hw : s.writeRegister r off x = .done () u)
    (hctrl : r ≠ .ctrl c) (hstatus : r ≠ .status c) (hreset : ¬ (r = .reset ∧ x = 1)) : s.SameChan u c := by
  cases r with
  | sentinel | version | ready => cases hw
  | reset =>
    rcases State.writeReset_cases hw with ⟨h1, -⟩ | ⟨-, rfl⟩
    · exact absurd ⟨rfl, h1⟩ hreset
    · exact ⟨rfl, rfl, rfl, rfl⟩
  | loopback | time k =>
    cases hw
    exact ⟨rfl, rfl, rfl, rfl⟩
  | timeCtrl =>
    rw [State.writeTimeCtrl_eq hw]
    exact ⟨rfl, rfl, rfl, rfl⟩
  | ctrl d => exact State.writeCtrl_sameChan hw fun e => hctrl (congrArg Reg.ctrl e.symm)
  | status d =>
    obtain ⟨-, -, rfl⟩ := State.writeStatus_cases hw
    exact ⟨rfl, rfl, PerChan.get_set_ne _ (fun e => hstatus (congrArg Reg.status e.symm)) _, rfl⟩

/-- A raw register write that does not break the correspondence (70 R148). -/
theorem State.regWr_sameChan {off : Half} {v : Word64} {r : Reg} (hb : Instr.breaks s.cfg c (.regWr off v) = false)
    (hr : s.cfg.regCheck off.toNat = .ok r) (hw : s.writeRegister r off.toNat (v.setWidth 16) = .done () u) :
    s.SameChan u c := by
  have hoff := Config.regCheck_ok hr
  simp only [Instr.breaks, Bool.or_eq_false_iff, Bool.and_eq_false_iff, beq_eq_false_iff_ne, hoff] at hb
  obtain ⟨⟨hctrl, hstatus⟩, hreset⟩ := hb
  refine State.writeRegister_sameChan hw (fun e => hctrl (e ▸ rfl)) (fun e => hstatus (e ▸ rfl)) ?_
  rintro ⟨rfl, h1⟩
  exact hreset.elim (fun h => h rfl) fun h => h h1

theorem Instr.drains.ownedChan (h : Instr.drains i c) : i.ownedChan = some c := by
  rcases h with rfl | rfl | ⟨us, rfl⟩ <;> rfl

theorem Instr.queries.not_lifecycle (h : Instr.queries i c) : i.isLifecycle = false := by
  rcases h with rfl | rfl | ⟨n, rfl⟩ | ⟨n, rfl⟩ | rfl | ⟨n, rfl⟩ <;> rfl

/-- A command of no channel or of another one leaves the fabric's state of channel `c`. -/
theorem State.Move.sameChan (h : s.Move i s') (hi : i.ownedChan ≠ some c) (hb : i.breaks s.cfg c = false)
    (hopen : ∀ hash seed p, s.current ≠ some ⟨.openDev hash seed, p⟩) : s.SameChan s' c := by
  cases h with
  | regRd | drainSeen | drainStatus | drainEnd | drainWait | clkRead | clkGot | drainAcquire =>
    have hu := ‹s.Reads _›.sameChan c
    exact ⟨hu.cfg, hu.descQ, hu.cmplQ, hu.start⟩
  | memRd8 =>
    have hu := ‹s.DrawsOnly _›.sameChan c
    exact ⟨hu.cfg, hu.descQ, hu.cmplQ, hu.start⟩
  | regWr off v tables r u hc hd hr hw =>
    have hu := State.regWr_sameChan hb hr hw
    exact ⟨hu.cfg, hu.descQ, hu.cmplQ, hu.start⟩
  | clkWrite _ tables p q r x u hk hc hd hr hw =>
    have hu : s.SameChan u c := by
      rcases hr with rfl | ⟨k, rfl⟩ <;> exact State.writeRegister_sameChan hw nofun nofun nofun
    exact ⟨hu.cfg, hu.descQ, hu.cmplQ, hu.start⟩
  | clkDone ns tables p x u v0 hc hd hw =>
    have hu : s.SameChan u c := State.writeRegister_sameChan hw nofun nofun nofun
    exact ⟨hu.cfg, hu.descQ, hu.cmplQ, hu.start⟩
  | relFirst | relOnly | relSecond =>
    have hu := State.writeCtrl_sameChan ‹s.writeCtrl _ _ _ = _› (c := c) fun e => hi (congrArg some e.symm)
    exact ⟨hu.cfg, hu.descQ, hu.cmplQ, hu.start⟩
  | drainAck _ d tables n hd =>
    have hne : c ≠ d := fun e => hi (e ▸ hd.ownedChan)
    exact ⟨rfl, rfl, PerChan.get_set_ne _ hne _, rfl⟩
  | openStart | openMap | openFail | openRead | openWrite | openTest | openTestEnd | openMemWrite | openMemWriteEnd |
    openMemRead | openMemReadEnd => exact absurd ‹s.current = some _› (hopen _ _ _)
  | _ => exact ⟨rfl, rfl, rfl, rfl⟩

theorem Table.Change.ownedChan {cfg : Config} {a b : Table} (h : a.Change cfg c i b) : i.ownedChan = some c := by
  cases h with
  | acquire hi => rcases hi with rfl | rfl | ⟨us, rfl⟩ <;> rfl
  | release n hi => rcases hi with rfl | ⟨len, rfl⟩ <;> rfl
  | mark n hi =>
    rcases hi with hi | ⟨v, rfl⟩
    · exact hi.ownedChan
    · rfl

/-! ### The threads -/

/-- A step of a command leaves the state, faults, starts the command, or goes on with it from its program point. -/
theorem State.Move.cases_current (h : s.Move i s') :
    s' = s ∨ (∃ code info, s' = s.raised code info) ∨ (s.current = none ∧ s' = s.goto i .start) ∨
      ∃ p, s.current = some ⟨i, p⟩ := by
  cases h with
  | halt => exact .inr (.inl ⟨_, _, rfl⟩)
  | stay => exact .inl rfl
  | enter | enterOpen | enterClose => exact .inr (.inr (.inl ⟨‹s.current = none›, rfl⟩))
  | _ => exact .inr (.inr (.inr ⟨_, ‹s.current = some _›⟩))

theorem State.Move.of_closeDev (h : s.Move .closeDev s') :
    s'.threads = s.threads ∨ s' = s.goto .closeDev .start ∨ s' = s.cutOff.unwind.finished .ok none none := by
  cases h with
  | halt | stay => exact .inl rfl
  | enterClose => exact .inr (.inl rfl)
  | close => exact .inr (.inr rfl)
  | enter => cases ‹Instr.isLifecycle _ = false›
  | query => cases ‹Instr.queries _ _›.not_lifecycle
  | clkWrite _ tables p q r x u hk => rcases hk with ⟨e, -⟩ | ⟨ns, e, -⟩ <;> cases e
  | _ => cases ‹Instr.drains _ _›.not_lifecycle

/-- A step of a command that leaves `dev` OPEN leaves the other threads. -/
theorem State.Move.thread_ne_of_isOpen (h : s.Move i s') (ho : s'.IsOpen) {k : Nat} (hk : k ≠ s.tid) :
    s'.thread k = s.thread k := by
  rcases h.effect.thread_ne hk with e | ⟨hclose, -⟩
  · exact e
  · rcases h.cases_current with rfl | ⟨_, _, rfl⟩ | ⟨hn, -⟩ | ⟨p, hc⟩
    · rfl
    · rfl
    · cases hn.symm.trans hclose
    · cases hc.symm.trans hclose
      rcases h.of_closeDev with hth | rfl | rfl
      · exact State.thread_congr hth k
      · exact State.thread_setThread_ne s _ hk
      · obtain ⟨tables, hd⟩ := ho
        cases hd

/-- After a step of command `i` its thread has no command in progress, or `i`. -/
theorem State.Effect.running_self (h : s.Effect i s') (hlt : s.tid < s.threads.length) {r r' : Running}
    (hr : s.current = some r) (hi : r.instr = i) (hr' : (s'.thread s.tid).running = some r') : r'.instr = i := by
  cases h with
  | stay u hu =>
    rw [hu.hosts.thread, ← State.current, hr] at hr'
    cases hr'
    exact hi
  | goto u p hu =>
    rw [State.goto, State.putAt, hu.hosts.tid, State.thread_setThread_same u _ (hu.hosts.threads ▸ hlt)] at hr'
    cases hr'
    rfl
  | finish u st v0 v1 hu =>
    rw [State.finished, hu.hosts.tid, State.thread_setThread_same u _ (hu.hosts.threads ▸ hlt)] at hr'
    cases hr'
  | close u hu =>
    rw [State.finished, State.cutOff_tid, hu.hosts.tid,
      State.thread_setThread_same u.cutOff _ (by rwa [State.cutOff_threads_length, hu.hosts.threads])] at hr'
    cases hr'

theorem State.ownerRunning_congr (hth : u.threads = s.threads) (hcfg : u.cfg = s.cfg) (c : Chan) :
    u.ownerRunning c = s.ownerRunning c := by
  rw [State.ownerRunning, State.ownerRunning, hcfg, State.thread_congr hth]

theorem State.CorrespondenceInv.of_same (h : s.CorrespondenceInv c) (hu : s.SameChan u c)
    (hth : u.threads = s.threads) (hd : u.dev = s.dev) : u.CorrespondenceInv c :=
  fun tables ht => (h tables (hd.symm.trans ht)).of_same hu (State.ownerRunning_congr hth hu.cfg c)

/-! ### A step of a command that is not the channel's own -/

theorem State.calm_of_not_owned (h : ∀ r, s.ownerRunning c = some r → r.instr.ownedChan ≠ some c) :
    s.Calm c ∧ s.SeesCompletion c := by
  refine ⟨fun r hr => Running.calm_of_point fun hi => absurd hi (h r hr), fun r hr hh => ?_⟩
  rw [Running.holdsCompletion_of_not_owned (h r hr)] at hh
  cases hh

theorem State.Move.correspondenceInv_other (h : s.Move i s') (hi : i.ownedChan ≠ some c)
    (hb : i.breaks s.cfg c = false) (hs : s.LifecycleInv) (ho : s.IsOpen) (hlt : s.tid < s.threads.length) {p : Point}
    (hc : s.current = some ⟨i, p⟩) (hcorr : s.CorrespondenceInv c) : s'.CorrespondenceInv c := by
  have hchan := h.sameChan hi hb (hs.current_ne_open ho)
  obtain ⟨tables, hd⟩ := ho
  intro tables' hd'
  have htable : tables'.get c = tables.get c := by
    rcases h.devStep.opened_cases hs hd hd' c with e | ⟨-, hchange⟩
    · exact e
    · exact absurd hchange.ownedChan hi
  rw [htable]
  by_cases hown : s.cfg.owner.get c = s.tid
  · have hbefore : ∀ r, s.ownerRunning c = some r → r.instr.ownedChan ≠ some c := by
      intro r hr
      rw [State.ownerRunning, hown, ← State.current, hc] at hr
      cases hr
      exact hi
    have hafter : ∀ r, s'.ownerRunning c = some r → r.instr.ownedChan ≠ some c := by
      intro r hr
      rw [State.ownerRunning, hchan.cfg, hown] at hr
      rwa [h.effect.running_self hlt hc rfl hr]
    obtain ⟨hcalm, -⟩ := State.calm_of_not_owned hbefore
    obtain ⟨hcalm', hsees'⟩ := State.calm_of_not_owned hafter
    obtain ⟨hstep, -⟩ := (State.corresponds_iff_inStep hcalm).mp (hcorr tables hd)
    exact (State.corresponds_iff_inStep hcalm').mpr ⟨hstep.of_same hchan (.refl _), hsees'⟩
  · refine (hcorr tables hd).of_same hchan ?_
    rw [State.ownerRunning, hchan.cfg, h.thread_ne_of_isOpen ⟨tables', hd'⟩ hown, State.ownerRunning]

/-! ### A step of the owner in a command of the channel -/

theorem State.correspondenceInv_of_dev {tables : PerChan Table} (hd : s.dev = .opened tables)
    (ht : tables.get c = t) (h : s.Corresponds c t) : s.CorrespondenceInv c := by
  intro tables' hd'
  cases hd.symm.trans hd'
  rwa [ht]

/-- The thread whose step it is owns channel `c`. -/
structure State.OwnerSteps (s : State) (c : Chan) : Prop where
  owner : s.tid = s.cfg.owner.get c
  exists_thread : s.tid < s.threads.length

section
variable (ho : s.OwnerSteps c)
include ho

theorem State.OwnerSteps.ownerRunning : s.ownerRunning c = s.current := by
  rw [State.ownerRunning, ← ho.owner, State.current]

theorem State.OwnerSteps.ownerRunning_goto (hu : s.Keeps u) (i : Instr) (p : Point) :
    (u.goto i p).ownerRunning c = some ⟨i, p⟩ := by
  have hlt : u.tid < u.threads.length := by
    rw [hu.hosts.tid, hu.hosts.threads]
    exact ho.exists_thread
  rw [State.ownerRunning, State.goto_cfg, hu.form.cfg, ← ho.owner, ← hu.hosts.tid, State.goto, State.putAt,
    State.thread_setThread_same u _ hlt]

theorem State.OwnerSteps.ownerRunning_finished (hu : s.Keeps u) (st : Status) (v0 v1 : Option Word64) :
    (u.finished st v0 v1).ownerRunning c = none := by
  have hlt : u.tid < u.threads.length := by
    rw [hu.hosts.tid, hu.hosts.threads]
    exact ho.exists_thread
  rw [State.ownerRunning, State.finished_cfg, hu.form.cfg, ← ho.owner, ← hu.hosts.tid]
  exact u.finished_running hlt st v0 v1

theorem State.OwnerSteps.inStep (hs : s.Corresponds c t) (hp : ∀ r, s.current = some r → r.point.calm = true) :
    s.InStep c t ∧ s.SeesCompletion c :=
  (State.corresponds_iff_inStep fun r hr => Running.calm_of_point fun _ => hp r (ho.ownerRunning ▸ hr)).mp hs

theorem State.OwnerSteps.goto_corresponds (hu : s.Keeps u) {p : Point} (hstep : u.InStep c t) (hp : p.calm = true)
    (hsees : Running.holdsCompletion ⟨i, p⟩ c = true → u.cmplQ.get c ≠ []) : (u.goto i p).Corresponds c t := by
  have hr := ho.ownerRunning_goto hu i p
  refine (State.corresponds_iff_inStep fun r hr' => ?_).mpr ⟨hstep, fun r hr' => ?_⟩
  · cases hr.symm.trans hr'
    exact Running.calm_of_point fun _ => hp
  · cases hr.symm.trans hr'
    exact hsees

theorem State.OwnerSteps.finished_corresponds (hu : s.Keeps u) (hstep : u.InStep c t) (st : Status)
    (v0 v1 : Option Word64) : (u.finished st v0 v1).Corresponds c t := by
  have hr := ho.ownerRunning_finished hu st v0 v1
  refine (State.corresponds_iff_inStep fun r hr' => ?_).mpr ⟨hstep, fun r hr' => ?_⟩ <;> cases hr.symm.trans hr'

end

/-- AcquireHead claims a FREE slot, so that it leaves the PENDING ones. -/
theorem Table.Inv.acquired_samePending {n frame : Nat} (h : t.Inv n frame) (ha : 0 < t.avail) :
    t.SamePending (t.acquired n) := ⟨(h.acquire ha).2, rfl⟩

theorem Config.frameOff_toNat {cfg : Config} (hwf : cfg.wf = true) {n : Nat} (hn : n < cfg.capacity.get c) :
    (BitVec.ofNat 16 (cfg.frameOff c n)).toNat = cfg.frameOff c n := by
  obtain ⟨-, -, -, -, -, hend, -⟩ := of_decide_eq_true (Config.wf_chanOk hwf c)
  rw [Config.regionEnd, Config.regionBytes] at hend
  have hle : n * cfg.frameBytes.get c ≤ cfg.capacity.get c * cfg.frameBytes.get c := Nat.mul_le_mul_right _ hn.le
  rw [BitVec.toNat_ofNat, Nat.mod_eq_of_lt]
  rw [Config.frameOff]
  omega

theorem State.releaseFirst_half (s : State) (c : Chan) (h : Half) :
    (s.releaseFirst c h).setWidth 16 = BitVec.ofNat 16 (s.cfg.frameOff c h.toNat) :=
  BitVec.setWidth_ofNat_of_le (by decide) _

/-- The handle that is being handed over has its slot in the table. -/
theorem State.Handing.lt_capacity {h : Half} (hs : s.Handing c t h) (hwf : s.cfg.wf = true) :
    h.toNat < s.cfg.capacity.get c := by
  obtain ⟨hpos, -⟩ := of_decide_eq_true (Config.wf_chanOk hwf c)
  rw [hs.handed]
  exact Nat.mod_lt _ hpos

/-- The last CTRLc write of CH_RELEASE makes the descriptor of the slot that is being handed over (43 R102, R104). -/
theorem State.Handing.writeCtrl {h : Half} {off : Nat} {x : Half} (hs : s.Handing c t h) (hwf : s.cfg.wf = true)
    (hw : s.writeCtrl c off x = .done () u)
    (hcase : (c.dir = .s2mm ∧ s.mm2sStart.get c = none ∧ x = BitVec.ofNat 16 (s.cfg.frameOff c h.toNat)) ∨
      (c.dir = .mm2s ∧ s.mm2sStart.get c = some (BitVec.ofNat 16 (s.cfg.frameOff c h.toNat)))) : u.InStep c t := by
  have hfirst := Config.frameOff_toNat hwf (hs.lt_capacity hwf)
  obtain ⟨-, hwrite⟩ := State.writeCtrl_cases hw
  rcases hcase with ⟨hdir, hstart, rfl⟩ | ⟨hdir, hstart⟩
  · rcases hwrite with ⟨hd, -⟩ | ⟨_, hd, -⟩ | ⟨-, -, rfl⟩
    · cases hdir.symm.trans hd
    · cases hdir.symm.trans hd
    · exact hs.enqueue rfl (PerChan.get_set_same ..) rfl hstart hfirst
  · rcases hwrite with ⟨-, hnone, -⟩ | ⟨first, -, hsome, -, rfl⟩ | ⟨hd, -⟩
    · cases hstart.symm.trans hnone
    · cases hstart.symm.trans hsome
      exact hs.enqueue rfl (PerChan.get_set_same ..) rfl (PerChan.get_set_same ..) hfirst
    · cases hdir.symm.trans hd

/-- Every step of a channel's own command keeps the correspondence. -/
theorem State.Move.correspondenceInv_own (h : s.Move i s') (hi : i.ownedChan = some c)
    (hb : i.breaks s.cfg c = false) (hwf : s.cfg.wf = true) (hbus : s.busEnergized = true) (howners : s.OwnersInv)
    (hpoints : s.PointsInv) (htables : s.TablesInv) (hlt : s.tid < s.threads.length) {p₀ : Point}
    (hcur : s.current = some ⟨i, p₀⟩) (hcorr : s.CorrespondenceInv c) : s'.CorrespondenceInv c := by
  have ho : s.OwnerSteps c := ⟨howners _ _ _ _ hcur hi, hlt⟩
  have hcalm {tables : PerChan Table} (hd : s.dev = .opened tables) {q : Point} (hq : s.current = some ⟨i, q⟩)
      (hp : q.calm = true) := ho.inStep (hcorr tables hd) fun r hr => by cases hq.symm.trans hr; exact hp
  have hready {q : Point} {n : Nat} (hq : q = .start ∨ q = .drain (.ready n)) : q.calm = true := by
    rcases hq with rfl | rfl <;> rfl
  have hruns : s.ownerRunning c = s.current := ho.ownerRunning
  cases h with
  | halt => exact hcorr.of_same ⟨rfl, rfl, rfl, rfl⟩ rfl rfl
  | stay => exact hcorr
  | query _ k tables st v0 v1 hq hc hd =>
    obtain ⟨hstep, -⟩ := hcalm hd hc rfl
    exact State.correspondenceInv_of_dev hd rfl (ho.finished_corresponds (.refl s) hstep st v0 v1)
  | acqHead k tables v0 v1 hc hd ha =>
    cases hi
    obtain ⟨hstep, -⟩ := hcalm hd hc rfl
    have hpend := (htables tables hd c).acquired_samePending ha
    exact State.correspondenceInv_of_dev rfl (PerChan.get_set_same ..)
      (ho.finished_corresponds (s.setTable_keeps ..) (hstep.of_same ((State.SameChan.refl s c).setTable ..) hpend) .ok v0 v1)
  | markRel | markTail =>
    cases hi
    cases (beq_self_eq_true c).symm.trans hb
  | drainSeen _ k tables p q u n hk hc hd hp hu hne hq =>
    cases hk.ownedChan.symm.trans hi
    obtain ⟨hstep, -⟩ := hcalm hd hc (hready hp)
    have hcalmq : q.calm = true := by rcases hq with ⟨_, rfl⟩ | rfl <;> rfl
    refine State.correspondenceInv_of_dev (hu.dev.trans hd) rfl
      (ho.goto_corresponds hu.keeps (hstep.of_same (hu.sameChan c) (.refl _)) hcalmq fun _ => ?_)
    rw [(hu.sameChan c).cmplQ]
    exact hne hbus
  | drainStatus _ k tables u n x hk hc hd hu =>
    cases hk.ownedChan.symm.trans hi
    obtain ⟨hstep, hsees⟩ := hcalm hd hc rfl
    refine State.correspondenceInv_of_dev (hu.dev.trans hd) rfl
      (ho.goto_corresponds hu.keeps (hstep.of_same (hu.sameChan c) (.refl _)) rfl fun _ => ?_)
    rw [(hu.sameChan c).cmplQ]
    exact hsees _ (hruns.trans hc) (decide_eq_true hi)
  | drainMark _ k tables n amount hk hc hd hf =>
    cases hk.ownedChan.symm.trans hi
    obtain ⟨hstep, hsees⟩ := hcalm hd hc rfl
    obtain ⟨-, hpend, -⟩ := Table.markFault_none hf
    have hseen := hsees _ (hruns.trans hc) (decide_eq_true hi)
    exact State.correspondenceInv_of_dev rfl (PerChan.get_set_same ..)
      ((State.corresponds_iff_acking (ho.ownerRunning_goto (s.setTable_keeps ..) _ _) hi).mpr
        (hstep.mark hseen hpend ⟨rfl, rfl, rfl, rfl⟩ rfl))
  | drainAck _ k tables n hk hc hd hreset =>
    cases hk.ownedChan.symm.trans hi
    have hack := (State.corresponds_iff_acking (hruns.trans hc) hi).mp (hcorr tables hd)
    have hkeeps : s.Keeps { s with cmplQ := s.cmplQ.set c (s.cmplQ.get c).tail } := ⟨⟨rfl, rfl, rfl⟩, rfl, id, id⟩
    exact State.correspondenceInv_of_dev hd rfl
      (ho.goto_corresponds hkeeps (hack.ack rfl rfl (PerChan.get_set_same ..) rfl) rfl nofun)
  | drainEnd _ k tables p u n st v0 v1 hk hc hd hp hu =>
    obtain ⟨hstep, -⟩ := hcalm hd hc (hready hp)
    exact State.correspondenceInv_of_dev (hu.dev.trans hd) rfl
      (ho.finished_corresponds hu.keeps (hstep.of_same (hu.sameChan c) (.refl _)) st v0 v1)
  | drainAcquire _ k tables p u n v0 v1 hk hne hc hd hp hu ha =>
    cases hk.ownedChan.symm.trans hi
    obtain ⟨hstep, -⟩ := hcalm hd hc (hready hp)
    have hpend := (htables tables hd c).acquired_samePending ha
    exact State.correspondenceInv_of_dev rfl (PerChan.get_set_same ..)
      (ho.finished_corresponds (hu.keeps.trans (u.setTable_keeps ..))
        (hstep.of_same ((hu.sameChan c).setTable ..) hpend) .ok v0 v1)
  | drainWait k us tables p u n hc hd hp hu =>
    obtain ⟨hstep, -⟩ := hcalm hd hc (hready hp)
    exact State.correspondenceInv_of_dev (hu.dev.trans hd) rfl
      (ho.goto_corresponds hu.keeps (hstep.of_same (hu.sameChan c) (.refl _)) rfl nofun)
  | waited k us tables hc hd =>
    obtain ⟨hstep, -⟩ := hcalm hd hc rfl
    exact State.correspondenceInv_of_dev hd rfl (ho.goto_corresponds (.refl s) hstep rfl nofun)
  | relMark k n len tables hc hd hf =>
    cases hi
    obtain ⟨hstep, -⟩ := hcalm hd hc rfl
    have hstart := hstep.1
    exact State.correspondenceInv_of_dev rfl (PerChan.get_set_same ..)
      ((State.corresponds_iff_handing (ho.ownerRunning_goto (s.setTable_keeps ..) _ _) (.inl rfl)).mpr
        ⟨hstep.release ⟨rfl, rfl, rfl, rfl⟩ hf, hstart⟩)
  | relFirst k n len tables u hc hd hdir hw =>
    cases hi
    obtain ⟨hhand, hstart⟩ := (State.corresponds_iff_handing (hruns.trans hc) (.inl rfl)).mp (hcorr tables hd)
    have hkeeps := State.writeCtrl_keeps hw
    refine State.correspondenceInv_of_dev ((State.writeCtrl_dev hw).trans hd) rfl
      ((State.corresponds_iff_handing (ho.ownerRunning_goto hkeeps _ _) (.inr rfl)).mpr ?_)
    obtain ⟨-, ⟨-, -, rfl⟩ | ⟨_, -, hsome, -⟩ | ⟨hd, -⟩⟩ := State.writeCtrl_cases hw
    · rw [State.releaseFirst_half]
      exact ⟨hhand.of_same rfl rfl rfl, (PerChan.get_set_same ..).trans (if_pos rfl).symm⟩
    · cases hstart.symm.trans hsome
    · cases hdir.symm.trans hd
  | relOnly k n len tables u hc hd hdir hw =>
    cases hi
    obtain ⟨hhand, hstart⟩ := (State.corresponds_iff_handing (hruns.trans hc) (.inl rfl)).mp (hcorr tables hd)
    have hstep := hhand.writeCtrl hwf hw (.inl ⟨hdir, hstart, s.releaseFirst_half c n⟩)
    exact State.correspondenceInv_of_dev ((State.writeCtrl_dev hw).trans hd) rfl
      (ho.finished_corresponds (State.writeCtrl_keeps hw) hstep .ok none none)
  | relSecond k n len tables u hc hd hw =>
    cases hi
    obtain ⟨hhand, hstart⟩ := (State.corresponds_iff_handing (hruns.trans hc) (.inr rfl)).mp (hcorr tables hd)
    have hdir : c.dir = .mm2s := of_decide_eq_true (hpoints _ _ hc)
    have hstep := hhand.writeCtrl hwf hw (.inr ⟨hdir, hstart.trans (if_pos rfl)⟩)
    exact State.correspondenceInv_of_dev ((State.writeCtrl_dev hw).trans hd) rfl
      (ho.finished_corresponds (State.writeCtrl_keeps hw) hstep .ok none none)
  | enter | enterOpen | enterClose => cases hcur.symm.trans ‹s.current = none›
  | clkWrite _ tables p q r x u hk => rcases hk with ⟨rfl, -⟩ | ⟨ns, rfl, -⟩ <;> cases hi
  | _ => cases hi

end Sys2Proof.Machine
end

section
/-! PROOFS. Table and fabric queues correspond (43 R108): every step of the machine from an OPEN device keeps the
correspondence, the step that opens the device establishes it, and a run whose streams hold no breaking command has none in
progress (70 R148). -/

namespace Sys2Proof.Machine

open Sys2Proof

variable {s s' u : State} {i : Instr} {c : Chan}

/-! ### From an OPEN device -/

/-- A thread that starts a command is at its first point, which no part of the correspondence looks at. -/
theorem State.CorrespondenceInv.goto_start (h : s.CorrespondenceInv c) (hn : s.current = none)
    (hlt : s.tid < s.threads.length) (i : Instr) : (s.goto i .start).CorrespondenceInv c := by
  intro tables hd
  by_cases hown : s.cfg.owner.get c = s.tid
  · have ho : s.OwnerSteps c := ⟨hown.symm, hlt⟩
    obtain ⟨hstep, -⟩ := ho.inStep (h tables hd) fun r hr => by cases hn.symm.trans hr
    exact ho.goto_corresponds (.refl s) hstep rfl nofun
  · exact (h tables hd).of_same ⟨rfl, rfl, rfl, rfl⟩ (congrArg Thread.running (State.thread_setThread_ne s _ hown))

theorem State.Move.correspondenceInv (h : s.Move i s') (hwf : s.cfg.wf = true) (ho : s.IsOpen) (hs : s.LifecycleInv)
    (howners : s.OwnersInv) (hpoints : s.PointsInv) (htables : s.TablesInv) (hno : s.NoBreakingCommand c)
    (hlt : s.tid < s.threads.length) (hcorr : s.CorrespondenceInv c) : s'.CorrespondenceInv c := by
  rcases h.cases_current with rfl | ⟨_, _, rfl⟩ | ⟨hn, rfl⟩ | ⟨p, hc⟩
  · exact hcorr
  · exact hcorr.of_same ⟨rfl, rfl, rfl, rfl⟩ rfl rfl
  · exact hcorr.goto_start hn hlt i
  · have hb := hno _ _ _ hc
    by_cases hi : i.ownedChan = some c
    · obtain ⟨tables, hd⟩ := ho
      obtain ⟨-, hbus, -⟩ := (State.lifecycleOk_opened hd).mp hs.2
      exact h.correspondenceInv_own hi hb hwf hbus howners hpoints htables hlt hc hcorr
    · exact h.correspondenceInv_other hi hb hs ho hlt hc hcorr

/-- A DMA engine moves one descriptor of its channel to the completions. -/
theorem State.dmaStep_correspondenceInv {k : Chan} (h : s.dmaStep k = .next s') (hcorr : s.CorrespondenceInv c) :
    s'.CorrespondenceInv c := by
  intro tables hd
  have hcorr := hcorr tables ((State.dmaStep_dev h).symm.trans hd)
  have hcfg := State.dmaStep_cfg h
  have hruns := State.ownerRunning_congr (State.dmaStep_sameHosts h).threads hcfg c
  by_cases hk : c = k
  · subst hk
    rcases State.dmaStep_cases h with rfl | ⟨_, _, rfl⟩ | ⟨-, _, _, rest, _, _, u, hq, hu, rfl⟩ |
      ⟨-, _, rest, _, _, u, hq, hu, rfl⟩
    · exact hcorr
    · exact hcorr.of_same ⟨rfl, rfl, rfl, rfl⟩ rfl
    all_goals
      exact hcorr.dma hq hcfg hruns (PerChan.get_set_same ..) (PerChan.get_set_same ..) (hu.sameChan c).start
  · refine hcorr.of_same ?_ hruns
    rcases State.dmaStep_cases h with rfl | ⟨_, _, rfl⟩ | ⟨-, _, _, rest, _, _, u, hq, hu, rfl⟩ |
      ⟨-, _, rest, _, _, u, hq, hu, rfl⟩
    · exact .refl _ c
    · exact ⟨rfl, rfl, rfl, rfl⟩
    all_goals exact ⟨hcfg, PerChan.get_set_ne _ hk _, PerChan.get_set_ne _ hk _, (hu.sameChan c).start⟩

theorem step_correspondenceInv (ho : s.IsOpen) (hs : s.LifecycleInv) (howners : s.OwnersInv) (hpoints : s.PointsInv)
    (htables : s.TablesInv) (hno : s.NoBreakingCommand c) (hcorr : s.CorrespondenceInv c) (h : step s = .next s') :
    s'.CorrespondenceInv c := by
  obtain ⟨-, hok, u, hu, rfl⟩ := step_next h
  have hwf := State.configOk_wf hok
  suffices hcu : u.CorrespondenceInv c from
    hcu.of_same ⟨u.schedule_cfg, by rw [u.schedule_descQ], by rw [u.schedule_cmplQ], by rw [u.schedule_mm2sStart]⟩
      u.schedule_threads u.schedule_dev
  rcases agentStep_cases hwf hu with rfl | ⟨_, _, rfl⟩ | ⟨t, i, ht, hlt, hm⟩ | ⟨k, -, hd⟩ | ⟨-, rfl⟩ | ⟨-, hl⟩
  · exact hcorr
  · exact hcorr.of_same ⟨rfl, rfl, rfl, rfl⟩ rfl rfl
  · exact hm.correspondenceInv hwf ho hs howners hpoints htables hno (State.tid_of_host ht ▸ hlt) hcorr
  · exact State.dmaStep_correspondenceInv hd hcorr
  · exact hcorr.of_same ⟨rfl, rfl, rfl, rfl⟩ rfl rfl
  · rcases State.loaderStep_cases hl with rfl | ⟨hash, seed, hr, -⟩
    · exact hcorr
    · obtain ⟨hopening, -⟩ := hs.at_opening hr
      obtain ⟨tables, hd⟩ := ho
      cases hopening.symm.trans hd

/-! ### The step that opens the device -/

/-- A step of a command opens the device only from OPENING, and with fresh tables. -/
theorem State.DevStep.of_opens {d : Dev} (h : s.DevStep i d) (hs : s.LifecycleInv) (hn : ¬ s.IsOpen)
    {tables : PerChan Table} (hd : d = .opened tables) : s.dev = .opening ∧ tables = s.cfg.freshTables := by
  cases h with
  | same => exact absurd ⟨tables, hd⟩ hn
  | leave _ hleave => exact absurd hd (hleave tables)
  | construct hash seed p hc =>
    obtain ⟨-, hr⟩ := hs.tid_eq hc rfl
    cases hd
    exact ⟨(hs.at_opening hr).1, rfl⟩
  | change old k p b ho => exact absurd ⟨old, ho⟩ hn

theorem Instr.not_lifecycle_of_ownedChan (h : i.ownedChan = some c) : i.isLifecycle = false := by
  cases i with
  | openDev | closeDev => cases h
  | _ => rfl

/-- Fresh tables correspond to empty queues, while every command left over has been cut off. -/
theorem State.Corresponds.of_empty {t : Table} (hq : s.QueuesEmpty) (hcut : s.AllCut) (ht : t.pendingCount = 0) :
    s.Corresponds c t := by
  obtain ⟨hdesc, hcmpl, hstart⟩ := hq
  have hpoint : ∀ r, s.ownerRunning c = some r → r.instr.ownedChan = some c → r.point = .cut :=
    fun r hr hi => hcut _ r.instr r.point hr (Instr.not_lifecycle_of_ownedChan hi)
  have hcalm : s.Calm c := fun r hr => Running.calm_of_point fun hi => by rw [hpoint r hr hi]; rfl
  refine (State.corresponds_iff_inStep hcalm).mpr ⟨⟨?_, ?_, ?_⟩, fun r hr hh => ?_⟩
  · rw [hstart, PerChan.get_all]
  · rw [ht, hdesc, hcmpl, PerChan.get_all, PerChan.get_all]
    rfl
  · intro j d hd
    rw [hdesc, PerChan.get_all] at hd
    cases hd
  · by_cases hi : r.instr.ownedChan = some c
    · rw [Running.holdsCompletion, hpoint r hr hi] at hh
      cases hh
    · rw [Running.holdsCompletion_of_not_owned hi] at hh
      cases hh

theorem State.Move.corresponds_of_opens (h : s.Move i s') (hs : s.LifecycleInv) (hq : s.QuietOpenInv)
    (hcut : s.CutOffInv) (hn : ¬ s.IsOpen) : s'.CorrespondenceInv c := by
  intro tables hd
  obtain ⟨-, rfl⟩ := h.devStep.of_opens hs hn hd
  refine .of_empty (h.queuesEmpty_of_opens hs hq hn ⟨_, hd⟩) (h.allCut hn (hcut hn)) ?_
  rw [Config.freshTables_get, Table.fresh_pendingCount]

theorem step_corresponds_of_opens (hs : s.LifecycleInv) (hq : s.QuietOpenInv) (hcut : s.CutOffInv) (hn : ¬ s.IsOpen)
    (h : step s = .next s') : s'.CorrespondenceInv c := by
  obtain ⟨-, hok, u, hu, rfl⟩ := step_next h
  suffices hcu : u.CorrespondenceInv c from
    hcu.of_same ⟨u.schedule_cfg, by rw [u.schedule_descQ], by rw [u.schedule_cmplQ], by rw [u.schedule_mm2sStart]⟩
      u.schedule_threads u.schedule_dev
  have hsame (hd : u.dev = s.dev) : u.CorrespondenceInv c :=
    fun tables ht => absurd ⟨tables, hd.symm.trans ht⟩ hn
  rcases agentStep_cases (State.configOk_wf hok) hu with rfl | ⟨_, _, rfl⟩ | ⟨_, _, -, -, hm⟩ | ⟨_, -, hd⟩ | ⟨-, rfl⟩ |
    ⟨-, hl⟩
  · exact hsame rfl
  · exact hsame rfl
  · exact hm.corresponds_of_opens hs hq hcut hn
  · exact hsame (State.dmaStep_dev hd)
  · exact hsame rfl
  · exact hsame (State.loaderStep_dev hl)

/-! ### R108's own words -/

theorem State.Corresponds.inStep {t : Table} (h : s.Corresponds c t) (hn : s.NotPartWay c) : s.InStep c t := by
  have hcalm : s.Calm c := fun r hr => Running.calm_of_point fun hi => by
    rcases hn r hr hi with hp | hp | hp <;> rw [hp] <;> rfl
  exact ((State.corresponds_iff_inStep hcalm).mp h).1

/-! ### The commands of a run -/

theorem State.Effect.running_cases (h : s.Effect i s') {t : Nat} {r : Running} (hr : (s'.thread t).running = some r) :
    r.instr = i ∨ ∃ p, (s.thread t).running = some ⟨r.instr, p⟩ := by
  cases h with
  | stay u hu => exact .inr ⟨r.point, hu.hosts.thread t ▸ hr⟩
  | goto u p hu =>
    rcases State.running_setThread_cases hr with hr | hr
    · cases hr
      exact .inl rfl
    · exact .inr ⟨r.point, hu.hosts.thread t ▸ hr⟩
  | finish u st v0 v1 hu =>
    rcases State.running_setThread_cases hr with hr | hr
    · cases hr
    · exact .inr ⟨r.point, hu.hosts.thread t ▸ hr⟩
  | close u hu hc =>
    rcases State.running_setThread_cases hr with hr | hr
    · cases hr
    · rw [State.cutOff_thread, hu.hosts.thread] at hr
      rcases Thread.cutOff_cases hr with ⟨hr, -⟩ | ⟨-, -, hr⟩
      · exact .inr ⟨r.point, hr⟩
      · exact .inr hr

/-- The command that a thread has in progress is the one that it had, or the one that it fetched. -/
theorem agentStep_running_cases (hwf : s.cfg.wf = true) (h : agentStep s = .next s') {t : Nat} {r : Running}
    (hr : (s'.thread t).running = some r) :
    (∃ p, (s.thread t).running = some ⟨r.instr, p⟩) ∨ s.fetch t = .run r.instr := by
  by_cases ht : s.turn = .host t
  · rw [agentStep_of_host ht, hostStep] at h
    split at h
    · cases h
      exact .inl ⟨r.point, hr⟩
    · cases h
      exact .inl ⟨r.point, hr⟩
    · next i hi =>
      rcases (exec_move hwf h).effect.running_cases hr with rfl | hkept
      · exact .inr hi
      · exact .inl hkept
  · rcases agentStep_thread_other hwf h ht with e | ⟨-, rfl, hash, seed, hload, e⟩ | ⟨_, -, -, e⟩ <;> rw [e] at hr
    · exact .inl ⟨r.point, hr⟩
    · cases hr
      exact .inl ⟨_, hload⟩
    · rcases Thread.cutOff_cases hr with ⟨hr, -⟩ | ⟨-, -, hr⟩
      · exact .inl ⟨r.point, hr⟩
      · exact .inl hr

theorem Thread.fetch_cases {th : Thread} (h : th.fetch = .run i) :
    (∃ r, th.running = some r ∧ r.instr = i) ∨ ∃ w ∈ th.stream, decode w = .ok i := by
  unfold Thread.fetch at h
  split at h
  · next r hr =>
    cases h
    exact .inl ⟨r, hr, rfl⟩
  · split at h
    · cases h
    · next w hw =>
      split at h
      · next hdec =>
        cases h
        exact .inr ⟨w, List.mem_of_getElem? hw, hdec⟩
      · cases h

/-- No command that breaks the correspondence of channel `c` is in a command stream or in progress (70 R148). -/
structure State.Unbroken (s : State) (c : Chan) : Prop where
  streams : ∀ t, ∀ w ∈ (s.thread t).stream, ∀ i, decode w = .ok i → i.breaks s.cfg c = false
  running : s.NoBreakingCommand c

theorem State.Unbroken.of_fetch (h : s.Unbroken c) {t : Nat} (hf : s.fetch t = .run i) : i.breaks s.cfg c = false := by
  rw [State.fetch] at hf
  split at hf
  · cases hf
  · next th hth =>
    have ht : s.thread t = th := by rw [State.thread, List.getD_eq_getElem?_getD, hth, Option.getD_some]
    rcases Thread.fetch_cases hf with ⟨r, hr, rfl⟩ | ⟨w, hw, hdec⟩
    · exact h.running t r.instr r.point (ht ▸ hr)
    · exact h.streams t w (ht ▸ hw) i hdec

theorem agentStep_unbroken (hwf : s.cfg.wf = true) (hs : s.Unbroken c) (h : agentStep s = .next s') :
    s'.Unbroken c := by
  obtain ⟨-, hstream⟩ := agentStep_keepsStreams hwf h
  have hcfg := (agentStep_keepsForm hwf h).cfg
  constructor
  · intro t
    rw [hstream t, hcfg]
    exact hs.streams t
  · intro t i p hr
    rw [hcfg]
    rcases agentStep_running_cases hwf h hr with ⟨q, hq⟩ | hf
    · exact hs.running t i q hq
    · exact hs.of_fetch hf

/-- What holds in every state of a run whose streams hold no breaking command. -/
structure State.RunInv (s : State) (c : Chan) : Prop where
  points : s.PointsInv
  owners : s.OwnersInv
  lifecycle : s.LifecycleInv
  quiet : s.QuietOpenInv
  cutOff : s.CutOffInv
  tables : s.TablesInv
  unbroken : s.Unbroken c
  correspondence : s.CorrespondenceInv c

theorem step_cutOffInv (hs : s.LifecycleInv) (hcut : s.CutOffInv) (h : step s = .next s') : s'.CutOffInv := by
  obtain ⟨-, hok, u, hu, rfl⟩ := step_next h
  exact (agentStep_cutOffInv (State.configOk_wf hok) hs hcut hu).of_same u.schedule_threads u.schedule_dev

theorem step_quietOpenInv (hs : s.LifecycleInv) (hq : s.QuietOpenInv) (h : step s = .next s') : s'.QuietOpenInv := by
  obtain ⟨-, hok, u, hu, rfl⟩ := step_next h
  refine (agentStep_quietOpenInv (State.configOk_wf hok) hs hq hu).of_same u.schedule_threads u.schedule_dev ?_
  rw [State.QueuesEmpty, State.QueuesEmpty, u.schedule_descQ, u.schedule_cmplQ, u.schedule_mm2sStart]
  exact id

theorem step_unbroken (hs : s.Unbroken c) (h : step s = .next s') : s'.Unbroken c := by
  obtain ⟨-, hok, u, hu, rfl⟩ := step_next h
  have hun := agentStep_unbroken (State.configOk_wf hok) hs hu
  constructor
  · intro t
    rw [u.schedule_thread, u.schedule_cfg]
    exact hun.streams t
  · intro t i p
    rw [u.schedule_thread, u.schedule_cfg]
    exact hun.running t i p

theorem step_runInv (hs : s.RunInv c) (h : step s = .next s') : s'.RunInv c where
  points := step_pointsInv hs.points h
  owners := onlyOwnersRunChannelCommands.1 s s' hs.owners h
  lifecycle := lifecycleInvariant s s' hs.lifecycle h
  quiet := step_quietOpenInv hs.lifecycle hs.quiet h
  cutOff := step_cutOffInv hs.lifecycle hs.cutOff h
  tables := tablesKeepTheirInvariant.1 s s' hs.tables h
  unbroken := step_unbroken hs.unbroken h
  correspondence := by
    by_cases ho : s.IsOpen
    · exact step_correspondenceInv ho hs.lifecycle hs.owners hs.points hs.tables hs.unbroken.running hs.correspondence h
    · exact step_corresponds_of_opens hs.lifecycle hs.quiet hs.cutOff ho h

theorem State.RunInv.of_reaches (h : Reaches s s') (hs : s.RunInv c) : s'.RunInv c := by
  induction h with
  | refl => exact hs
  | step _ hstep ih => exact step_runInv ih hstep

/-- A run starts with the invariants, whatever its first agent, its schedule and its draws are. -/
theorem State.powerOn_runInv {cfg : Config} {streams : List (List CmdWord)}
    (h : ∀ stream ∈ streams, ∀ w ∈ stream, ∀ i, decode w = .ok i → i.breaks cfg c = false) (first : Agent)
    (sched : List Agent) (answers : List Word64) :
    State.RunInv { State.powerOn cfg streams with turn := first, sched := sched, answers := answers } c := by
  obtain ⟨-, htables, -, hpoints, howners, hlife, hquiet, hcut, hcorr⟩ := invariantsHoldAtPowerOn cfg streams
  obtain ⟨hcorr, hno⟩ := hcorr c
  refine ⟨hpoints, howners, hlife, hquiet, hcut, htables, ⟨fun t w hw => ?_, hno⟩, nofun⟩
  have hmem : w ∈ streams.getD t [] := by
    have hthread := congrArg Thread.stream (State.powerOn_thread cfg streams t)
    exact hthread.subst (motive := (w ∈ ·)) hw
  rw [List.getD_eq_getElem?_getD] at hmem
  cases hstream : streams[t]? with
  | none => rw [hstream] at hmem; cases hmem
  | some stream =>
    rw [hstream] at hmem
    exact h stream (List.mem_of_getElem? hstream) w hmem

/-- Settles O35: the two step clauses by the case of the step, R108's own words by the form of the correspondence while the
owner is calm, and the clause on runs by the invariants of a run whose streams hold no breaking command. -/
theorem tablesCorrespondToQueues : Obligations.TablesCorrespondToQueues := by
  unfold Obligations.TablesCorrespondToQueues
  refine ⟨fun s s' c ho hs howners hpoints htables hno hcorr h =>
      step_correspondenceInv ho hs howners hpoints htables hno hcorr h,
    fun s s' c hd hs hq hcut h => ?_, fun s c table hcorr hn => hcorr.inStep hn,
    fun cfg streams first sched answers c s tables hstreams hreach hd hn => ?_⟩
  · refine step_corresponds_of_opens hs hq hcut ?_ h
    rintro ⟨tables, ht⟩
    cases hd.symm.trans ht
  · have hrun := (State.powerOn_runInv hstreams first sched answers).of_reaches hreach
    exact (hrun.correspondence tables hd).inStep hn

end Sys2Proof.Machine
end

section
/-! PROOFS. A write of CTRLc (43 R104), in each of its cases, and REG_WR's write of it. -/

namespace Sys2Proof.Machine

open Sys2Proof

variable {s : State} {t n : Nat} {c : Chan} {x first : Half}

/-! ### WriteCtrl, case by case -/

theorem State.writeCtrl_stores (hr : s.resetAsserted = false) (hd : c.dir = .mm2s) (hm : s.mm2sStart.get c = none) :
    s.writeCtrl c n x = .done () { s with mm2sStart := s.mm2sStart.set c (some x) } := by
  simp [State.writeCtrl, hr, hd, hm]

theorem State.writeCtrl_pairs (hr : s.resetAsserted = false) (hd : c.dir = .mm2s) (hm : s.mm2sStart.get c = some first)
    (hroom : (s.descQ.get c).length ≠ s.cfg.queueDepth.get c) :
    s.writeCtrl c n x = .done () { s with
      mm2sStart := s.mm2sStart.set c none, descQ := s.descQ.set c (s.descQ.get c ++ [Desc.mm2s first x]) } := by
  simp [State.writeCtrl, State.enqueue, hr, hd, hm, hroom]

theorem State.writeCtrl_queues (hr : s.resetAsserted = false) (hd : c.dir = .s2mm)
    (hroom : (s.descQ.get c).length ≠ s.cfg.queueDepth.get c) :
    s.writeCtrl c n x = .done () { s with descQ := s.descQ.set c (s.descQ.get c ++ [Desc.s2mm x]) } := by
  simp [State.writeCtrl, State.enqueue, hr, hd, hroom]

/-- A write that makes a descriptor for a full queue is refused. -/
theorem State.writeCtrl_full (hr : s.resetAsserted = false) (hm : c.dir = .s2mm ∨ s.mm2sStart.get c ≠ none)
    (hfull : (s.descQ.get c).length = s.cfg.queueDepth.get c) :
    s.writeCtrl c n x = .refuse .dmaQueueOverflow (.chan c) := by
  cases hd : c.dir with
  | s2mm => simp [State.writeCtrl, State.enqueue, hr, hd, hfull]
  | mm2s =>
    obtain ⟨first, hfirst⟩ := Option.ne_none_iff_exists'.mp (hm.resolve_left (by simp [hd]))
    simp [State.writeCtrl, State.enqueue, hr, hd, hfirst, hfull]

/-- Settles O21: REG_WR completes or faults as its write of CTRLc does, in each of the cases of `State.writeCtrl`. -/
theorem ctrlWrite : Obligations.CtrlWrite := by
  unfold Obligations.CtrlWrite
  intro s t off v c tables h hb hoff x full
  have hdone {u : State} (hw : s.writeCtrl c off.toNat x = .done () u) :
      exec (.regWr off v) s = .next (u.completes t 0x00 (s.thread t).rv0 (s.thread t).rv1) :=
    execRegWr_of_done (r := .ctrl c) h hb hoff hw
  have hrefuse {code : FaultCode} {info : FaultInfo} (hw : s.writeCtrl c off.toNat x = .refuse code info) :
      exec (.regWr off v) s = .next (s.faultBy t code info) :=
    execRegWr_of_refuse (r := .ctrl c) h hb hoff hw
  refine ⟨fun hr => hrefuse (State.writeCtrl_refused hr), fun hr => ⟨fun hd hm => ?_, fun first hd hm => ?_, fun hd => ?_⟩⟩
  · exact hdone (State.writeCtrl_stores hr hd hm)
  · have hsome : s.mm2sStart.get c ≠ none := by rw [hm]; nofun
    exact ⟨fun hfull => hrefuse (State.writeCtrl_full hr (.inr hsome) hfull),
      fun hroom => hdone (State.writeCtrl_pairs hr hd hm hroom)⟩
  · exact ⟨fun hfull => hrefuse (State.writeCtrl_full hr (.inl hd) hfull),
      fun hroom => hdone (State.writeCtrl_queues hr hd hroom)⟩

end Sys2Proof.Machine
end

section
/-! PROOFS. The channel commands (spec 43 R100 to R103): the end of a drain, the steps of CH_RELEASE by the outcome of their
CTRLc write, and what each command completes with or raises. -/

namespace Sys2Proof.Machine

open Sys2Proof

variable {s u : State} {i : Instr} {t n : Nat} {c : Chan} {h : Half} {len us : Word64} {tables : PerChan Table}
  {code : FaultCode} {info : FaultInfo}

/-! ### The end of a drain (44 R110) -/

/-- READYc reads 0 while no completion of the channel is queued. -/
theorem State.readRegister_ready_of_empty (hwf : s.cfg.wf = true) (hq : s.cmplQ.get c = []) :
    (s.readRegister .ready).1.getLsbD (s.cfg.readyBit.get c) = false := by
  show (readyValue s.cfg s.cmplQ s.draw16.1).getLsbD _ = false
  rw [readyValue_bit hwf, hq]
  rfl

theorem State.BusReady.drainStep_ends (hb : s.BusReady) (hq : s.cmplQ.get c = []) (done : Nat → State → Result) :
    s.drainStep i c tables (.ready n) done = done n (s.readRegister .ready).2 := by
  rw [State.drainStep, hb.onRegRead]
  refine if_neg ?_
  rw [State.readRegister_ready_of_empty hb.wf hq]
  exact Bool.false_ne_true

theorem State.BusReady.execChTryAcquire_ends (hb : s.BusReady) (hd : s.DrainAt t (.chTryAcquire c) n tables)
    (hq : s.cmplQ.get c = []) :
    exec (.chTryAcquire c) s = (s.readRegister .ready).2.acquireAndFinish tables c .noneAvailable := by
  rcases hd with ⟨ho, rfl⟩ | ho <;> rw [exec, execChTryAcquire, State.drainCommand, ho.commandStep nofun] <;>
    exact hb.drainStep_ends hq _

theorem State.BusReady.execChAcquire_ends (hb : s.BusReady) (hd : s.DrainAt t (.chAcquire c us) n tables)
    (hq : s.cmplQ.get c = []) :
    exec (.chAcquire c us) s = (s.readRegister .ready).2.acquireOrWait (.chAcquire c us) c us tables := by
  rcases hd with ⟨ho, rfl⟩ | ho <;> rw [exec, execChAcquire, ho.commandStep nofun] <;> exact hb.drainStep_ends hq _

theorem State.DrainAt.turn (hd : s.DrainAt t i n tables) : s.turn = .host t := by
  rcases hd with ⟨ho, -⟩ | ho <;> exact ho.place.turn

theorem State.DrainAt.withAnswers (hd : s.DrainAt t i n tables) (l : List Word64) :
    { s with answers := l }.DrainAt t i n tables :=
  hd.imp (fun ⟨ho, hn⟩ => ⟨ho.withAnswers l, hn⟩) fun ho => ho.withAnswers l

/-- Settles O45: the drain ends in this step, and what follows is AcquireHead and its `finish`. -/
theorem tryAcquireCommand : Obligations.TryAcquireCommand := by
  unfold Obligations.TryAcquireCommand
  refine fun c => ⟨entryFaults_of_not_lifecycle rfl, ?_⟩
  intro s t n tables hd hb hq table
  have hu := s.readRegister_drawsOnly .ready
  have ht := hu.sameHosts.turn.trans hd.turn
  rw [hb.execChTryAcquire_ends hd hq]
  refine ⟨_, hu, fun ha => State.acquireAndFinish_of_empty ht ha _, fun ha len hl => ?_⟩
  rw [State.acquireAndFinish_of_available ht ha hl, hu.frame.1]

/-! ### CH_ACQUIRE after a drain (43 R100) -/

theorem State.acquireOrWait_of_available (ha : 0 < (tables.get c).avail) :
    s.acquireOrWait i c us tables = s.acquireAndFinish tables c .timeout := if_pos ha

section
variable (ht : s.turn = .host t) (ha : (tables.get c).avail = 0)
include ht ha

theorem State.acquireOrWait_zero : s.acquireOrWait i c 0 tables =
    .next (s.completes t 0x02 (some minusOne) (some 0)) := by
  rw [State.acquireOrWait, if_neg (by omega), if_pos rfl]
  exact congrArg _ (State.finished_eq ht ..)

theorem State.acquireOrWait_expired (hus : us ≠ 0) (hdraw : s.drawBool.1 = true) : s.acquireOrWait i c us tables =
    .next (s.drawBool.2.completes t 0x02 (some minusOne) (some 0)) := by
  rw [State.acquireOrWait, if_neg (by omega), if_neg hus, if_pos hdraw]
  exact congrArg _ (State.finished_eq (s.draw_turn.trans ht) ..)

theorem State.acquireOrWait_waits (hus : us ≠ 0) (hdraw : s.drawBool.1 = false) : s.acquireOrWait i c us tables =
    .next (s.drawBool.2.putAt t i .wait) := by
  rw [State.acquireOrWait, if_neg (by omega), if_neg hus, if_neg (by rw [hdraw]; exact Bool.false_ne_true)]
  exact State.next_goto (s.draw_turn.trans ht) i .wait

end

theorem State.OpenAt.execChAcquire_waited (ho : s.OpenAt t (.chAcquire c us) .wait tables) :
    exec (.chAcquire c us) s = .next (s.putAt t (.chAcquire c us) (.drain (.ready 0))) := by
  rw [exec, execChAcquire, ho.commandStep nofun]
  exact State.next_goto ho.place.turn _ _

/-- Settles O46: the drain ends in this step, and what follows is AcquireHead, or the deadline test by its draw. -/
theorem acquireCommand : Obligations.AcquireCommand := by
  unfold Obligations.AcquireCommand
  refine fun c us => ⟨entryFaults_of_not_lifecycle rfl, ?_, fun s t tables ho => ho.execChAcquire_waited⟩
  intro s t n tables hd hb hq table
  have hu := s.readRegister_drawsOnly .ready
  have ht := hu.sameHosts.turn.trans hd.turn
  have hexec := hb.execChAcquire_ends hd hq
  refine ⟨fun ha len hl => ⟨_, hu, ?_⟩, fun ha hus => ⟨_, hu, ?_⟩, fun ha hus =>
    ⟨⟨_, hu.trans (State.draw_drawsOnly _), ?_⟩, ?_⟩⟩
  · rw [hexec, State.acquireOrWait_of_available ha, State.acquireAndFinish_of_available ht ha hl, hu.frame.1]
  · subst hus
    rw [hexec]
    exact State.acquireOrWait_zero ht ha
  · rw [hexec]
    cases hdraw : (s.readRegister .ready).2.drawBool.1 with
    | true => exact .inl (State.acquireOrWait_expired ht ha hus hdraw)
    | false => exact .inr (State.acquireOrWait_waits ht ha hus hdraw)
  · intro r b rest
    rw [(hb.withAnswers _).execChAcquire_ends (hd.withAnswers (r :: b :: rest)) hq]
    have ht' : { s with answers := b :: rest }.turn = .host t := hd.turn
    exact ⟨State.acquireOrWait_expired ht' ha hus, State.acquireOrWait_waits ht' ha hus⟩

/-! ### The steps of CH_RELEASE (43 R102) -/

theorem State.releaseLast_half (s : State) (c : Chan) (h : Half) (len : Word64) :
    (s.releaseLast c h len).setWidth 16 = BitVec.ofNat 16 (s.cfg.frameOff c h.toNat + len.toNat) :=
  BitVec.setWidth_ofNat_of_le (by decide) _

section
variable (ho : s.OpenAt t (.chRelease c h len) .start tables)
include ho

theorem State.OpenAt.execChRelease_fault (hf : s.releaseFault tables c h len = some (code, info)) :
    exec (.chRelease c h len) s = .next (s.faultBy t code info) := by
  rw [exec, execChRelease, ho.commandStep nofun]
  simp only [hf, State.raise, State.raised_of_host ho.place.turn]

theorem State.OpenAt.execChRelease_marks (hf : s.releaseFault tables c h len = none) :
    exec (.chRelease c h len) s =
      .next ((s.withTable tables c ((tables.get c).afterRelease h.toNat)).putAt t (.chRelease c h len) .relStart) := by
  rw [exec, execChRelease, ho.commandStep nofun]
  simp only [hf]
  exact State.next_goto (u := s.setTable tables c _) ho.place.turn _ _

end

section
variable (ho : s.OpenAt t (.chRelease c h len) .relStart tables) (hb : s.BusReady)
include ho hb

theorem State.OpenAt.execChRelease_firstRefused
    (hw : s.writeCtrl c (s.cfg.off (.ctrl c)) (BitVec.ofNat 16 (s.cfg.frameOff c h.toNat)) = .refuse code info) :
    exec (.chRelease c h len) s = .next (s.faultBy t code info) := by
  rw [← s.releaseFirst_half c h] at hw
  rw [exec, execChRelease, ho.commandStep nofun]
  exact State.onAccess_refuse ho.place.turn ((hb.regWrite (.ctrl c) (s.releaseFirst c h)).trans hw) _

/-- On an MM2S channel the end offset follows. -/
theorem State.OpenAt.execChRelease_first (hd : c.dir = .mm2s)
    (hw : s.writeCtrl c (s.cfg.off (.ctrl c)) (BitVec.ofNat 16 (s.cfg.frameOff c h.toNat)) = .done () u) :
    exec (.chRelease c h len) s = .next (u.putAt t (.chRelease c h len) .relEnd) := by
  have hosts := State.writeCtrl_sameHosts hw
  rw [← s.releaseFirst_half c h] at hw
  rw [exec, execChRelease, ho.commandStep nofun]
  refine (hb.onRegWrite (r := .ctrl c) hw _).trans ?_
  simp only [hd]
  exact State.next_goto (hosts.turn.trans ho.place.turn) _ _

/-- On an S2MM channel one write is all. -/
theorem State.OpenAt.execChRelease_only (hd : c.dir = .s2mm)
    (hw : s.writeCtrl c (s.cfg.off (.ctrl c)) (BitVec.ofNat 16 (s.cfg.frameOff c h.toNat)) = .done () u) :
    exec (.chRelease c h len) s = .next (u.completes t 0x00 (s.thread t).rv0 (s.thread t).rv1) := by
  have hosts := State.writeCtrl_sameHosts hw
  rw [← s.releaseFirst_half c h] at hw
  rw [exec, execChRelease, ho.commandStep nofun]
  refine (hb.onRegWrite (r := .ctrl c) hw _).trans ?_
  simp only [hd]
  exact congrArg _ (hosts.finished ho.place.turn .ok none none)

end

section
variable (ho : s.OpenAt t (.chRelease c h len) .relEnd tables) (hb : s.BusReady)
include ho hb

theorem State.OpenAt.execChRelease_secondRefused
    (hw : s.writeCtrl c (s.cfg.off (.ctrl c)) (BitVec.ofNat 16 (s.cfg.frameOff c h.toNat + len.toNat)) =
      .refuse code info) : exec (.chRelease c h len) s = .next (s.faultBy t code info) := by
  rw [← s.releaseLast_half c h len] at hw
  rw [exec, execChRelease, ho.commandStep nofun]
  exact State.onAccess_refuse ho.place.turn ((hb.regWrite (.ctrl c) (s.releaseLast c h len)).trans hw) _

theorem State.OpenAt.execChRelease_second
    (hw : s.writeCtrl c (s.cfg.off (.ctrl c)) (BitVec.ofNat 16 (s.cfg.frameOff c h.toNat + len.toNat)) = .done () u) :
    exec (.chRelease c h len) s = .next (u.completes t 0x00 (s.thread t).rv0 (s.thread t).rv1) := by
  have hosts := State.writeCtrl_sameHosts hw
  rw [← s.releaseLast_half c h len] at hw
  rw [exec, execChRelease, ho.commandStep nofun]
  exact (hb.onRegWrite (r := .ctrl c) hw _).trans (congrArg _ (hosts.finished ho.place.turn .ok none none))

end

/-! ### CH_RELEASE and its faults -/

/-- The last check of CH_RELEASE, that of an MM2S length, for the oldest IN_FLIGHT slot. -/
theorem State.releaseFault_of_oldest (hlt : h.toNat < s.cfg.capacity.get c)
    (hslot : (tables.get c).slots[h.toNat]? = some .inFlight)
    (hfirst : h.toNat = (tables.get c).firstInFlight (s.cfg.capacity.get c)) :
    s.releaseFault tables c h len = if c.dir = .mm2s ∧ s.cfg.frameBytes.get c < len.toNat then
      some (.lengthRange, .length c len.toNat) else none := by
  rw [State.releaseFault, Table.releaseFault_of_inFlight hlt hslot, if_neg (not_not.mpr hfirst)]

theorem State.releaseFault_of_table (hf : (tables.get c).releaseFault c (s.cfg.capacity.get c) h.toNat = some (code, info)) :
    s.releaseFault tables c h len = some (code, info) := by
  rw [State.releaseFault, hf]

/-- Settles O48: the checks of the first step are those of `State.releaseFault`, in its order, and those of a CTRLc write
are the refusals of `State.writeCtrl`. -/
theorem releaseFaults : Obligations.ReleaseFaults := by
  unfold Obligations.ReleaseFaults
  intro s t c h len tables i n table first off full
  refine ⟨entryFaults_of_not_lifecycle rfl, fun ho => ⟨fun hbad => ?_, fun hlt hslot => ⟨fun hne => ?_, ?_⟩⟩,
    fun ho hb => ⟨fun hr => ?_, fun hr hfull hmakes => ?_⟩, fun ho hb => ⟨fun hr => ?_, fun hr hfull hd hm => ?_⟩⟩
  · exact ho.execChRelease_fault (State.releaseFault_of_table (Table.releaseFault_of_not_inFlight hbad))
  · exact ho.execChRelease_fault
      (State.releaseFault_of_table ((Table.releaseFault_of_inFlight hlt hslot).trans (if_pos hne)))
  · intro hfirst hd hlong
    exact ho.execChRelease_fault ((State.releaseFault_of_oldest hlt hslot hfirst).trans (if_pos ⟨hd, hlong⟩))
  · exact ho.execChRelease_firstRefused hb (State.writeCtrl_refused hr)
  · exact ho.execChRelease_firstRefused hb (State.writeCtrl_full hr hmakes hfull)
  · exact ho.execChRelease_secondRefused hb (State.writeCtrl_refused hr)
  · exact ho.execChRelease_secondRefused hb (State.writeCtrl_full hr (.inr hm) hfull)

theorem State.openAt_putAt (ht : u.turn = .host t) (hlt : t < u.threads.length) (hd : u.dev = .opened tables) (i : Instr)
    (p : Point) : (u.putAt t i p).OpenAt t i p tables := by
  refine ⟨⟨ht, ?_, ?_⟩, hd⟩
  · rw [State.putAt, State.setThread, List.length_set]
    exact hlt
  · rw [State.putAt, State.thread_setThread_same u _ hlt]

theorem PerChan.set_set_of_get {α : Type} {m : PerChan α} {x : α} (h : m.get c = x) (y : α) :
    (m.set c y).set c x = m := by
  subst h
  cases c <;> rfl

/-- A command that completes without replacing RV0 and RV1 leaves what it leaves from any program point. -/
theorem State.completes_putAt_keeping (hlt : t < u.threads.length) (i : Instr) (p : Point) (r : Byte) :
    (u.putAt t i p).completes t r ((u.putAt t i p).thread t).rv0 ((u.putAt t i p).thread t).rv1 =
      u.completes t r (u.thread t).rv0 (u.thread t).rv1 := by
  rw [State.completes_putAt hlt, State.putAt, State.thread_setThread_same u _ hlt]

/-- Settles O47: the first step passes the checks of `State.releaseFault`; each CTRLc write is that of `State.writeCtrl`. -/
theorem releaseCommand : Obligations.ReleaseCommand := by
  unfold Obligations.ReleaseCommand
  constructor
  · intro s t c h len tables ho hb hr hlt hslot hfirst hm hroom i off released queued
    have hthread : t < released.threads.length := ho.place.exists_thread
    have hstart : (released.putAt t i .relStart).OpenAt t i .relStart _ :=
      State.openAt_putAt (u := released) ho.place.turn hthread rfl i .relStart
    have hfault := State.releaseFault_of_oldest (len := len) hlt hslot hfirst
    constructor
    · intro hd
      constructor
      · exact ho.execChRelease_marks (hfault.trans (if_neg (by simp [hd])))
      · refine (hstart.execChRelease_only (hb.of_eq rfl rfl) hd (State.writeCtrl_queues hr hd hroom.ne)).trans ?_
        exact congrArg _ (State.completes_putAt_keeping (u := queued _) hthread i .relStart 0x00)
    · intro hd hle half
      have hend : (half.putAt t i .relEnd).OpenAt t i .relEnd _ :=
        State.openAt_putAt (u := half) ho.place.turn hthread rfl i .relEnd
      refine ⟨ho.execChRelease_marks (hfault.trans (if_neg (by omega))), ?_, ?_⟩
      · refine (hstart.execChRelease_first (hb.of_eq rfl rfl) hd (State.writeCtrl_stores hr hd hm)).trans ?_
        exact congrArg _ (State.putAt_putAt (u := half) hthread i i .relStart .relEnd)
      · have hstored : (half.putAt t i .relEnd).mm2sStart.get c = some (BitVec.ofNat 16 off) := PerChan.get_set_same ..
        refine (hend.execChRelease_second (hb.of_eq rfl rfl) (State.writeCtrl_pairs hr hd hstored hroom.ne)).trans ?_
        refine (congrArg _ (State.completes_putAt_keeping (u := { queued (.mm2s _ _) with
          mm2sStart := (s.mm2sStart.set c _).set c none }) hthread i .relEnd 0x00)).trans ?_
        rw [PerChan.set_set_of_get hm]
        rfl
  · intro s t c h len tables hb hr i off room stored paired done
    refine ⟨fun ho => ⟨fun hd hm => ?_, fun f hd hm hroom => ?_, fun hd hroom => ?_⟩, fun ho hd =>
      ⟨fun hm => ?_, fun f hm hroom => ?_⟩⟩
    · exact ho.execChRelease_first hb hd (State.writeCtrl_stores hr hd hm)
    · exact ho.execChRelease_first hb hd (State.writeCtrl_pairs hr hd hm hroom)
    · exact ho.execChRelease_only hb hd (State.writeCtrl_queues hr hd hroom)
    · exact ho.execChRelease_second hb (State.writeCtrl_stores hr hd hm)
    · exact ho.execChRelease_second hb (State.writeCtrl_pairs hr hd hm hroom)

/-! ### CH_BUFFER (43 R103) -/

/-- Settles O49: CH_BUFFER is its check of the slot and then a `finish`. -/
theorem bufferCommand : Obligations.BufferCommand := by
  unfold Obligations.BufferCommand
  refine fun c h => ⟨entryFaults_of_not_lifecycle rfl, fun s t tables ho => ⟨fun hbad => ?_, fun hlt hslot => ?_⟩⟩
  · rw [← State.raised_of_host ho.place.turn]
    exact (ho.simpleStep _).trans (if_pos hbad)
  · rw [← Chan.win_id]
    exact ((ho.simpleStep _).trans (if_neg (not_or.mpr ⟨by omega, not_not.mpr hslot⟩))).trans (ho.next_finished _ _)

end Sys2Proof.Machine
end

section
/-! PROOFS. One step of a DMA engine (43 R106, R107): what is sent and received for any answers of the draws, and the answers
for which given bytes and a given count are. -/

namespace Sys2Proof.Machine

open Sys2Proof

variable {s u v : State} {c : Chan} {w : Window} {first last : Half} {rest : List Desc}

/-! ### The bytes of a step, and the draws for them -/

theorem State.DrawsOnly.byteAt (h : s.DrawsOnly u) (w : Window) (a : Nat) : u.byteAt w a = s.byteAt w a := by
  rw [h]
  rfl

theorem State.fetchBytes_of_written {n a : Nat} {x : Byte} (h : s.byteAt w a = some x) :
    State.fetchBytes w a (n + 1) s = (x :: (State.fetchBytes w (a + 1) n s).1, (State.fetchBytes w (a + 1) n s).2) := by
  rw [State.fetchBytes, h]

theorem State.fetchBytes_of_unwritten {n a : Nat} (h : s.byteAt w a = none) :
    State.fetchBytes w a (n + 1) s =
      (s.draw8.1 :: (State.fetchBytes w (a + 1) n s.draw8.2).1, (State.fetchBytes w (a + 1) n s.draw8.2).2) := by
  rw [State.fetchBytes, h]

/-- A written byte of the window is sent as it is. -/
theorem State.fetchBytes_of_byteAt {n a k : Nat} {x : Byte} (hk : k < n) (hx : s.byteAt w (a + k) = some x) :
    (State.fetchBytes w a n s).1[k]? = some x := by
  induction n generalizing s a k with
  | zero => cases hk
  | succ n ih =>
    cases k with
    | zero => rw [State.fetchBytes_of_written (by exact hx), List.getElem?_cons_zero]
    | succ k =>
      rw [Nat.add_comm k, ← Nat.add_assoc] at hx
      have hk := Nat.lt_of_succ_lt_succ hk
      cases hbyte : s.byteAt w a with
      | some y =>
        rw [State.fetchBytes_of_written hbyte, List.getElem?_cons_succ]
        exact ih hk hx
      | none =>
        rw [State.fetchBytes_of_unwritten hbyte, List.getElem?_cons_succ]
        exact ih hk ((s.draw_drawsOnly.byteAt w _).trans hx)

/-- The answers for which `data` is sent from address `a` of window `w`: one for each byte never written. -/
def State.sendAnswers (s : State) (w : Window) : Nat → List Byte → List Word64
  | _, [] => []
  | a, x :: data =>
    if (s.byteAt w a).isSome then State.sendAnswers s w (a + 1) data
    else x.setWidth 64 :: State.sendAnswers s w (a + 1) data

theorem State.fetchBytes_scripted {a : Nat} {data : List Byte}
    (h : ∀ k x, k < data.length → s.byteAt w (a + k) = some x → data[k]? = some x) (others : List Word64) :
    State.fetchBytes w a data.length { s with answers := s.sendAnswers w a data ++ others } =
      (data, { s with answers := others }) := by
  induction data generalizing a with
  | nil => rfl
  | cons y data ih =>
    have ih := ih (a := a + 1) fun k x hk hx => h (k + 1) x (Nat.succ_lt_succ hk) (by rwa [Nat.add_comm k, ← Nat.add_assoc])
    cases hbyte : s.byteAt w a with
    | some x =>
      obtain rfl : y = x := Option.some.inj (h 0 x (Nat.zero_lt_succ _) hbyte)
      have hanswers : s.sendAnswers w a (y :: data) = s.sendAnswers w (a + 1) data := if_pos (by rw [hbyte]; rfl)
      rw [hanswers, List.length_cons, State.fetchBytes_of_written (by exact hbyte), ih]
    | none =>
      have hanswers : s.sendAnswers w a (y :: data) = y.setWidth 64 :: s.sendAnswers w (a + 1) data :=
        if_neg (by rw [hbyte]; nofun)
      rw [hanswers, List.cons_append, List.length_cons, State.fetchBytes_of_unwritten (by exact hbyte),
        State.draw8_scripted, ih]

theorem State.drawBytes_scripted (s : State) (data : List Byte) (others : List Word64) :
    State.drawBytes data.length { s with answers := data.map (BitVec.setWidth 64) ++ others } =
      (data, { s with answers := others }) := by
  induction data with
  | nil => rfl
  | cons x data ih =>
    rw [List.length_cons, State.drawBytes, List.map_cons, List.cons_append, State.draw8_scripted, ih]

theorem State.draw16_pair (s : State) (x : Half) (others : List Word64) :
    { s with answers := x.setWidth 64 :: others }.draw16 = (x, { s with answers := others }) :=
  Prod.ext (s.draw16_scripted x others) rfl

/-- The draw of a count answers any count in its range (43 R107). -/
theorem State.drawUpTo_of_answers {n m : Nat} {others : List Word64} (h : s.answers = BitVec.ofNat 64 n :: others)
    (hn : n ≤ m) (hlt : n < 2 ^ 64) : s.drawUpTo m = (n, { s with answers := others }) := by
  rw [State.drawUpTo, State.draw_of_answers h, BitVec.toNat_ofNat, Nat.mod_eq_of_lt hlt, Nat.mod_eq_of_lt (by omega)]

/-! ### A step of the engine -/

theorem State.raised_of_dma (h : s.turn = .dma c) (code : FaultCode) (info : FaultInfo) :
    s.raised code info = s.withFault code (.dma c) none info := by
  simp only [State.raised, State.withFault, State.faultIndex, h]

section
variable (ht : s.turn = .dma c) (hf : s.cfg.fabricResponds = true) (hr : s.resetAsserted = false)
include ht hf hr

theorem agentStep_of_mm2s (hq : s.descQ.get c = .mm2s first last :: rest) :
    agentStep s = s.dmaSend c first last rest := by
  rw [agentStep_of_dma ht, State.dmaStep, if_neg (by simp [hf, hr]), hq]

theorem agentStep_of_s2mm (hq : s.descQ.get c = .s2mm first :: rest) : agentStep s = s.dmaReceive c first rest := by
  rw [agentStep_of_dma ht, State.dmaStep, if_neg (by simp [hf, hr]), hq]

end

theorem State.dmaSend_out_of_range (ht : s.turn = .dma c)
    (h : last.toNat < first.toNat ∨ s.cfg.winBytes c.win < last.toNat) :
    s.dmaSend c first last rest = .next (s.withFault .dmaRange (.dma c) none (.range c first.toNat last.toNat)) := by
  rw [State.dmaSend, if_pos (h.imp_left BitVec.lt_def.mpr), State.raise, State.raised_of_dma ht]

/-- What an MM2S step leaves, by the bytes fetched and the count drawn after them. -/
theorem State.dmaSend_of_fetched {data : List Byte} {count : Half}
    (hdata : State.fetchBytes c.win first.toNat (last.toNat - first.toNat) s = (data, v)) (hcount : v.draw16 = (count, u))
    (hle : first.toNat ≤ last.toNat) (hwin : last.toNat ≤ s.cfg.winBytes c.win) :
    s.dmaSend c first last rest = .next { u with
      descQ := s.descQ.set c rest
      streamOut := s.streamOut.set c (s.streamOut.get c ++ [data])
      cmplQ := s.cmplQ.set c (s.cmplQ.get c ++ [count]) } := by
  rw [State.dmaSend, if_neg (by rw [BitVec.lt_def]; omega)]
  simp only [hdata, hcount]

/-- Settles O50: the bytes fetched agree with the window, and the answers for given bytes and a count are those of the bytes
never written and then the count. -/
theorem dmaSendStep : Obligations.DmaSendStep := by
  unfold Obligations.DmaSendStep
  intro s c first last rest ht hf hr hdir hq agrees sent
  rw [agentStep_of_mm2s ht hf hr hq]
  refine ⟨State.dmaSend_out_of_range ht, fun hle hwin => ⟨?_, fun data count hagrees => ?_⟩⟩
  · obtain ⟨hdraws, hlength⟩ := State.fetchBytes_drawsOnly c.win (last.toNat - first.toNat) first.toNat s
    refine ⟨_, _, _, hdraws.trans (State.draw_drawsOnly _), ⟨hlength, fun k x hk hx => ?_⟩,
      State.dmaSend_of_fetched rfl rfl hle hwin⟩
    exact State.fetchBytes_of_byteAt (hlength ▸ hk) hx
  · obtain ⟨hlength, hbytes⟩ := hagrees
    refine ⟨s.sendAnswers c.win first.toNat data ++ [count.setWidth 64], fun others => ?_⟩
    rw [List.append_assoc, List.singleton_append]
    have hfetched := State.fetchBytes_scripted hbytes (count.setWidth 64 :: others)
    rw [hlength] at hfetched
    rw [agentStep_of_mm2s (by exact ht) (by exact hf) (by exact hr) (by exact hq)]
    exact State.dmaSend_of_fetched hfetched (s.draw16_pair count others) hle hwin

/-! ### S2MM -/

theorem Chan.win_ne_reg (c : Chan) : c.win ≠ .reg := by cases c <;> decide

/-- The memory after `data` is stored from `first` on in the window of channel `c`. -/
def State.received (s : State) (c : Chan) (first : Half) (data : List Byte) : Windows :=
  s.mem.set c.win (Memory.writeBytes (s.mem.get c.win) first.toNat data)

theorem State.received_byteAt (s : State) (c : Chan) (first : Half) (data : List Byte) :
    (∀ k < data.length, { s with mem := s.received c first data }.byteAt c.win (first.toNat + k) = data[k]?) ∧
      ∀ w a, (w ≠ c.win ∨ a < first.toNat ∨ first.toNat + data.length ≤ a) →
        { s with mem := s.received c first data }.byteAt w a = s.byteAt w a := by
  have hsame (a : Nat) := (congrArg (Memory.read · a) (Windows.get_set_same s.mem (Chan.win_ne_reg c) _)).trans
    (Memory.read_writeBytes data (s.mem.get c.win) first.toNat a)
  refine ⟨fun k hk => ?_, fun w a hout => ?_⟩
  · refine (hsame (first.toNat + k)).trans ((if_pos (by omega)).trans ?_)
    rw [Nat.add_sub_cancel_left]
  · by_cases hw : w = c.win
    · subst hw
      exact (hsame a).trans (if_neg (by have := hout.resolve_left (not_not.mpr rfl); omega))
    · exact congrArg (Memory.read · a) (Windows.get_set_ne s.mem hw _)

theorem State.dmaReceive_out_of_range (ht : s.turn = .dma c) {n : Nat}
    (hn : (s.drawUpTo (s.cfg.frameBytes.get c)).1 = n) (h : s.cfg.winBytes c.win < first.toNat + n) :
    s.dmaReceive c first rest = .next (s.withFault .dmaRange (.dma c) none (.range c first.toNat n)) := by
  subst hn
  rw [State.dmaReceive]
  simp only [if_pos h, State.raise, State.raised_of_dma ht]

/-- What an S2MM step leaves, by the count drawn and the bytes drawn after it. -/
theorem State.dmaReceive_of_drawn {n : Nat} {data : List Byte} (hn : s.drawUpTo (s.cfg.frameBytes.get c) = (n, v))
    (hdata : State.drawBytes n v = (data, u)) (hwin : first.toNat + n ≤ s.cfg.winBytes c.win) :
    s.dmaReceive c first rest = .next { u with
      mem := s.received c first data
      descQ := s.descQ.set c rest
      streamIn := s.streamIn.set c (s.streamIn.get c ++ [data])
      cmplQ := s.cmplQ.set c (s.cmplQ.get c ++ [BitVec.ofNat 16 data.length]) } := by
  have hlength := (State.drawBytes_drawsOnly n v).2
  rw [hdata] at hlength
  subst hlength
  rw [State.dmaReceive]
  simp only [hn, hdata, if_neg (Nat.not_lt.mpr hwin), State.received]

/-- Settles O51: the step's count is its first draw, whatever that answers, and its bytes are the draws after it. -/
theorem dmaReceiveStep : Obligations.DmaReceiveStep := by
  unfold Obligations.DmaReceiveStep
  intro s c first rest ht hf hr hdir hq out stored outcome
  have hstep := agentStep_of_s2mm ht hf hr hq
  have houtcome : outcome (s.drawUpTo (s.cfg.frameBytes.get c)).1 := by
    refine ⟨fun h => hstep.trans (State.dmaReceive_out_of_range ht rfl h), fun hwin => ?_⟩
    obtain ⟨hdraws, hlength⟩ := State.drawBytes_drawsOnly (s.drawUpTo (s.cfg.frameBytes.get c)).1
      (s.drawUpTo (s.cfg.frameBytes.get c)).2
    refine ⟨_, s.received c first _, _, s.draw_drawsOnly.trans hdraws, hlength, ?_, s.received_byteAt c first _⟩
    exact hstep.trans (State.dmaReceive_of_drawn rfl rfl hwin)
  refine ⟨⟨_, ?_, houtcome⟩, fun n hn ⟨others, hanswers⟩ hlt => ?_, fun data others hle hlt hwin hanswers => ?_⟩
  · exact Nat.lt_succ_iff.mp (Nat.mod_lt _ (Nat.zero_lt_succ _))
  · rwa [State.drawUpTo_of_answers hanswers hn hlt] at houtcome
  · refine ⟨s.received c first data, hstep.trans ?_, s.received_byteAt c first data⟩
    exact State.dmaReceive_of_drawn (State.drawUpTo_of_answers hanswers hle hlt) (s.drawBytes_scripted data others) hwin

end Sys2Proof.Machine
end

section
/-! PROOFS. The completion poller (spec 44): the write of STATUSc (R109), each step of DrainChannel (R110), and the end of
POLL_DRAIN (R111, R112). -/

namespace Sys2Proof.Machine

open Sys2Proof

variable {s u : State} {i : Instr} {t n bytes : Nat} {c : Chan} {tables : PerChan Table} {d : DrainPoint}
  {done : Nat → State → Result}

/-! ### The write of STATUSc (44 R109) -/

/-- The state after an acknowledgement: the oldest completion of channel `c`, if any, is removed. -/
def State.acked (s : State) (c : Chan) : State := { s with cmplQ := s.cmplQ.set c (s.cmplQ.get c).tail }

theorem State.writeStatus_acks (hr : s.resetAsserted = false) : s.writeStatus c n 0 = .done () (s.acked c) := by
  simp [State.writeStatus, State.acked, hr]

theorem PerChan.set_get_self {α : Type} (m : PerChan α) (c : Chan) : m.set c (m.get c) = m := by cases c <;> rfl

theorem State.acked_of_empty (hq : s.cmplQ.get c = []) : s.acked c = s := by
  rw [State.acked, hq, List.tail_nil, ← hq, PerChan.set_get_self]

/-- Settles O22: REG_WR completes or faults as its write of STATUSc does, and the tail of an empty queue is the queue. -/
theorem statusWrite : Obligations.StatusWrite := by
  unfold Obligations.StatusWrite
  intro s t off v c tables h hb hoff x
  refine ⟨fun hbad => execRegWr_of_refuse (r := .status c) h hb hoff (State.writeStatus_refused hbad), fun hr hx => ?_⟩
  have hdone : exec (.regWr off v) s = .next ((s.acked c).completes t 0x00 (s.thread t).rv0 (s.thread t).rv1) := by
    refine execRegWr_of_done (r := .status c) h hb hoff ?_
    show s.writeStatus c off.toNat x = _
    rw [hx, State.writeStatus_acks hr]
  refine ⟨fun n rest hq => ?_, fun hq => ?_⟩
  · rw [hdone, State.acked, hq, List.tail_cons]
  · rw [hdone, State.acked_of_empty hq]

/-! ### A step of a draining command is a step of DrainChannel -/

theorem DrainsChannel.exec_eq_drainStep {p : Point} (hi : DrainsChannel i c) (ho : s.OpenAt t i p tables)
    (hp : (p = .start ∧ d = .ready 0) ∨ p = .drain d) : ∃ done, exec i s = s.drainStep i c tables d done := by
  rcases hp with ⟨rfl, rfl⟩ | rfl <;> rcases hi with rfl | rfl | ⟨us, rfl⟩ <;>
    simp only [exec, execPollDrain, execChTryAcquire, execChAcquire, State.drainCommand, ho.commandStep nofun] <;>
    exact ⟨_, rfl⟩

theorem State.OpenAt.exec_eq_drainStep (ho : s.OpenAt t i (.drain d) tables) (hi : DrainsChannel i c) :
    ∃ done, exec i s = s.drainStep i c tables d done :=
  hi.exec_eq_drainStep ho (.inr rfl)

theorem State.DrainAt.exec_eq_drainStep (hd : s.DrainAt t i n tables) (hi : DrainsChannel i c) :
    ∃ done, exec i s = s.drainStep i c tables (.ready n) done := by
  rcases hd with ⟨ho, rfl⟩ | ho
  · exact hi.exec_eq_drainStep ho (.inl ⟨rfl, rfl⟩)
  · exact ho.exec_eq_drainStep hi

/-! ### The steps of DrainChannel, case by case (44 R110) -/

/-- READYc reads 1 while a completion of the channel is queued. -/
theorem State.readRegister_ready_of_queued (hwf : s.cfg.wf = true) (hq : s.cmplQ.get c ≠ []) :
    (s.readRegister .ready).1.getLsbD (s.cfg.readyBit.get c) = true :=
  (State.readRegister_readsAs hwf .ready c).mpr hq

theorem State.BusReady.drainStep_sees (hb : s.BusReady) (ht : s.turn = .host t) (hq : s.cmplQ.get c ≠ []) :
    s.drainStep i c tables (.ready n) done = .next ((s.readRegister .ready).2.putAt t i
      (.drain (if c.dir = .mm2s then .mark n (s.cfg.frameBytes.get c) else .status n))) := by
  have hturn := (s.readRegister_drawsOnly .ready).sameHosts.turn.trans ht
  rw [State.drainStep, hb.onRegRead, if_pos (State.readRegister_ready_of_queued hb.wf hq)]
  cases c.dir with
  | mm2s => exact State.next_goto hturn _ _
  | s2mm => exact State.next_goto hturn _ _

theorem State.BusReady.drainStep_status (hb : s.BusReady) (ht : s.turn = .host t) :
    s.drainStep i c tables (.status n) done = .next ((s.readRegister (.status c)).2.putAt t i
      (.drain (.mark n (s.readRegister (.status c)).1.toNat))) := by
  rw [State.drainStep, hb.onRegRead]
  exact State.next_goto ((s.readRegister_drawsOnly _).sameHosts.turn.trans ht) _ _

/-- STATUSc reads the count of the oldest completion, without a draw (10 R36). -/
theorem State.readRegister_status_of_queued {x : Half} {rest : List Half} (hq : s.cmplQ.get c = x :: rest) :
    s.readRegister (.status c) = (x, s) := by
  rw [State.readRegister, hq]

theorem State.drainStep_markFaults {code : FaultCode} {info : FaultInfo} (ht : s.turn = .host t)
    (hf : (tables.get c).markFault c (s.cfg.capacity.get c) (s.cfg.frameBytes.get c) bytes = some (code, info)) :
    s.drainStep i c tables (.mark n bytes) done = .next (s.faultBy t code info) := by
  rw [State.drainStep, State.markTail_of_fault ht hf]

theorem State.drainStep_marks (ht : s.turn = .host t)
    (hf : (tables.get c).markFault c (s.cfg.capacity.get c) (s.cfg.frameBytes.get c) bytes = none) :
    s.drainStep i c tables (.mark n bytes) done = .next
      ((s.withTable tables c ((tables.get c).afterMark (s.cfg.capacity.get c) bytes)).putAt t i (.drain (.ack n))) := by
  rw [State.drainStep, State.markTail_of_pass hf]
  exact State.next_goto (u := s.withTable tables c _) ht _ _

theorem State.BusReady.drainStep_acks (hb : s.BusReady) (ht : s.turn = .host t) (hr : s.resetAsserted = false) :
    s.drainStep i c tables (.ack n) done = .next ((s.acked c).putAt t i (.drain (.ready (n + 1)))) := by
  have hw : s.writeRegister (.status c) (s.cfg.off (.status c)) 0 = .done () (s.acked c) := State.writeStatus_acks hr
  rw [State.drainStep, hb.onRegWrite hw]
  exact State.next_goto (u := s.acked c) ht _ _

theorem State.BusReady.drainStep_ackRefused (hb : s.BusReady) (ht : s.turn = .host t) (hr : s.resetAsserted = true) :
    s.drainStep i c tables (.ack n) done =
      .next (s.faultBy t .regAccess (.access (s.cfg.off (.status c)) 0)) :=
  State.onAccess_refuse ht ((hb.regWrite (.status c) 0).trans (State.writeStatus_refused (.inl hr))) _

/-- Settles O42: each clause is one of the steps of `State.drainStep`, which all three commands take. -/
theorem drainSteps : Obligations.DrainSteps := by
  unfold Obligations.DrainSteps
  intro s t i c n tables hi hb table frame
  refine ⟨fun hd hq => ?_, fun ho => ?_, fun amount ho => ?_, fun ho => ?_⟩
  · obtain ⟨done, hexec⟩ := hd.exec_eq_drainStep hi
    rw [hexec, hb.drainStep_sees hd.turn hq]
    exact ⟨_, s.readRegister_drawsOnly .ready, fun hdir => by rw [if_pos hdir], fun hdir => by rw [hdir]; rfl⟩
  · obtain ⟨done, hexec⟩ := ho.exec_eq_drainStep hi
    rw [hexec, hb.drainStep_status ho.place.turn]
    refine ⟨fun x rest hq => ?_, fun _ => ⟨_, _, s.readRegister_drawsOnly (.status c), rfl⟩⟩
    rw [State.readRegister_status_of_queued hq]
  · obtain ⟨done, hexec⟩ := ho.exec_eq_drainStep hi
    rw [hexec]
    have ht := ho.place.turn
    refine ⟨fun hfull => ?_, fun hne st hst => ⟨fun hn => ?_, ?_, ?_⟩⟩
    · exact State.drainStep_markFaults ht (Table.markFault_of_full hfull)
    · exact State.drainStep_markFaults ht (Table.markFault_of_not_pending hne hst hn)
    · rintro rfl hlong
      exact State.drainStep_markFaults ht ((Table.markFault_of_pending hne hst).trans (if_pos hlong))
    · rintro rfl hle
      exact State.drainStep_marks ht ((Table.markFault_of_pending hne hst).trans (if_neg (by omega)))
  · obtain ⟨done, hexec⟩ := ho.exec_eq_drainStep hi
    rw [hexec]
    exact ⟨hb.drainStep_ackRefused ho.place.turn, hb.drainStep_acks ho.place.turn⟩

/-! ### The end of POLL_DRAIN (44 R111, R112) -/

theorem State.BusReady.execPollDrain_ends (hb : s.BusReady) (hd : s.DrainAt t (.pollDrain c) n tables)
    (hq : s.cmplQ.get c = []) :
    exec (.pollDrain c) s = .next ((s.readRegister .ready).2.completes t 0x00
      (some (BitVec.ofNat 64 n)) (some (BitVec.ofNat 64 (tables.get c).avail))) := by
  have hends : exec (.pollDrain c) s = (s.readRegister .ready).2.finish2 .ok
      (BitVec.ofNat 64 n) (BitVec.ofNat 64 (tables.get c).avail) := by
    rcases hd with ⟨ho, rfl⟩ | ho <;> rw [exec, execPollDrain, State.drainCommand, ho.commandStep nofun] <;>
      exact hb.drainStep_ends hq _
  rw [hends]
  exact congrArg _ (State.finished_eq ((s.readRegister_drawsOnly .ready).sameHosts.turn.trans hd.turn) ..)

/-- Settles O43: the READY read that sees no completion goes on to the `finish` of POLL_DRAIN in its own step. -/
theorem drainEnds : Obligations.DrainEnds := by
  unfold Obligations.DrainEnds
  exact fun c => ⟨entryFaults_of_not_lifecycle rfl, fun s t n tables hd hb hq =>
    ⟨_, s.readRegister_drawsOnly .ready, hb.execPollDrain_ends hd hq⟩⟩

end Sys2Proof.Machine
end

section
/-! PROOFS. A table after the marks of several completions, oldest first (spec 42 R88, R92), and a whole POLL_DRAIN with no
other agent between its steps (44 R110 to R112), by induction on the queued completions. -/

namespace Sys2Proof.Machine

open Sys2Proof

/-! ### A table after several completion marks -/

/-- The table after MarkTail of each count in turn (42 R92). -/
def Table.afterMarks (table : Table) (n : Nat) (counts : List Nat) : Table :=
  counts.foldl (fun marked bytes => marked.afterMark n bytes) table

/-- The table meets its invariant, and MarkTail of each count in turn passes its checks: there is a PENDING slot for each,
and no count is over the frame size (42 R88, R92). -/
structure Table.Takes (table : Table) (n frame : Nat) (counts : List Nat) : Prop where
  inv : table.Inv n frame
  pending : counts.length ≤ table.pendingCount
  le_frame : ∀ bytes ∈ counts, bytes ≤ frame

section
variable {table : Table} {n frame bytes h : Nat} {c : Chan} {counts : List Nat}

@[simp] theorem Table.afterMarks_nil : table.afterMarks n [] = table := rfl

@[simp] theorem Table.afterMarks_cons :
    table.afterMarks n (bytes :: counts) = (table.afterMark n bytes).afterMarks n counts := rfl

theorem Table.afterMarks_head : (table.afterMarks n counts).head = table.head := by
  induction counts generalizing table with
  | nil => rfl
  | cons bytes counts ih => exact ih

theorem Table.afterMarks_avail : (table.afterMarks n counts).avail = table.avail + counts.length := by
  induction counts generalizing table with
  | nil => rfl
  | cons bytes counts ih =>
    rw [Table.afterMarks_cons, ih, List.length_cons]
    show table.avail + 1 + counts.length = _
    omega

/-- A place after the tail of the table marked once is one place further after the tail of the table. -/
theorem Table.afterMark_place (j : Nat) : ((table.afterMark n bytes).tail + j) % n = (table.tail + (j + 1)) % n := by
  show ((table.tail + 1) % n + j) % n = _
  rw [Nat.mod_add_mod, Nat.add_assoc, Nat.add_comm 1 j]

theorem Table.Takes.tail_pending (ht : table.Takes n frame (bytes :: counts)) :
    table.slots[table.tail]? = some .pending := by
  have hpos : 0 < table.pendingCount := Nat.lt_of_lt_of_le (Nat.succ_pos _) ht.pending
  have hused := ht.inv.used_from_tail 0 (Nat.lt_of_lt_of_le hpos ht.inv.pending_le)
  rwa [Nat.add_zero, Nat.mod_eq_of_lt ht.inv.tail_lt, if_pos hpos] at hused

theorem Table.Takes.markFault_none (ht : table.Takes n frame (bytes :: counts)) :
    table.markFault c n frame bytes = none := by
  have hpending := ht.pending
  have hused := ht.inv.pending_le
  rw [List.length_cons] at hpending
  rw [Table.markFault_of_pending (by omega) ht.tail_pending]
  exact if_neg (Nat.not_lt.mpr (ht.le_frame bytes (List.mem_cons_self ..)))

theorem Table.Takes.mark (ht : table.Takes n frame (bytes :: counts)) :
    (table.afterMark n bytes).Takes n frame counts where
  inv := ht.inv.mark (c := .framerMm2s) ht.markFault_none
  pending := Nat.le_of_succ_le_succ (ht.pending.trans_eq (Table.markTail_count ht.tail_pending).symm)
  le_frame := fun b hb => ht.le_frame b (List.mem_cons_of_mem _ hb)

theorem Table.Takes.afterMarks_inv (ht : table.Takes n frame counts) : (table.afterMarks n counts).Inv n frame := by
  induction counts generalizing table with
  | nil => exact ht.inv
  | cons bytes counts ih => exact ih ht.mark

theorem Table.Takes.afterMarks_pendingCount (ht : table.Takes n frame counts) :
    (table.afterMarks n counts).pendingCount + counts.length = table.pendingCount := by
  induction counts generalizing table with
  | nil => rfl
  | cons bytes counts ih =>
    rw [Table.afterMarks_cons, List.length_cons, ← Nat.add_assoc, ih ht.mark]
    exact Table.markTail_count ht.tail_pending

theorem Table.Takes.afterMarks_tail (ht : table.Takes n frame counts) :
    (table.afterMarks n counts).tail = (table.tail + counts.length) % n := by
  induction counts generalizing table with
  | nil => exact (Nat.mod_eq_of_lt ht.inv.tail_lt).symm
  | cons bytes counts ih => rw [Table.afterMarks_cons, ih ht.mark, Table.afterMark_place, List.length_cons]

/-- The marks change no slot but those from the tail on. -/
theorem Table.Takes.afterMarks_other (ht : table.Takes n frame counts)
    (hne : ∀ j < counts.length, h ≠ (table.tail + j) % n) :
    (table.afterMarks n counts).slots[h]? = table.slots[h]? ∧
      (table.afterMarks n counts).lens[h]? = table.lens[h]? := by
  induction counts generalizing table with
  | nil => exact ⟨rfl, rfl⟩
  | cons bytes counts ih =>
    have htail : table.tail ≠ h := by
      have := hne 0 (Nat.succ_pos _)
      rw [Nat.add_zero, Nat.mod_eq_of_lt ht.inv.tail_lt] at this
      exact this.symm
    obtain ⟨hslots, hlens⟩ := ih ht.mark fun j hj => by
      rw [Table.afterMark_place]
      exact hne (j + 1) (Nat.succ_lt_succ hj)
    exact ⟨hslots.trans (List.getElem?_set_ne htail), hlens.trans (List.getElem?_set_ne htail)⟩

/-- Each marked slot is FREE, with its count as its length. -/
theorem Table.Takes.afterMarks_marked (ht : table.Takes n frame counts) {j : Nat} (hj : j < counts.length) :
    (table.afterMarks n counts).slots[(table.tail + j) % n]? = some .free ∧
      (table.afterMarks n counts).lens[(table.tail + j) % n]? = counts[j]? := by
  induction counts generalizing table j with
  | nil => cases hj
  | cons bytes counts ih =>
    cases j with
    | zero =>
      have htail := ht.inv.tail_lt
      have hlen : counts.length + 1 ≤ n := (ht.pending.trans ht.inv.pending_le).trans (Nat.sub_le ..)
      have hne : ∀ j < counts.length, table.tail ≠ ((table.afterMark n bytes).tail + j) % n := fun j hj e => by
        rw [Table.afterMark_place] at e
        have := ring_inj (a := table.tail) (i := 0) (j := j + 1) (n := n) (by omega)
          (by omega) (by rwa [Nat.add_zero, Nat.mod_eq_of_lt htail])
        omega
      obtain ⟨hslots, hlens⟩ := ht.mark.afterMarks_other hne
      rw [Nat.add_zero, Nat.mod_eq_of_lt htail, Table.afterMarks_cons, hslots, hlens]
      exact ⟨List.getElem?_set_self (by rwa [ht.inv.slots_length]), List.getElem?_set_self (by rwa [ht.inv.lens_length])⟩
    | succ j =>
      rw [← Table.afterMark_place (bytes := bytes), Table.afterMarks_cons, List.getElem?_cons_succ]
      exact ih ht.mark (Nat.lt_of_succ_lt_succ hj)

end

/-! ### One iteration of DrainChannel -/

/-- The length that a drain records for a completion of channel `c` with count `x` (44 R110). -/
def recordedLength (cfg : Config) (c : Chan) (x : Half) : Nat :=
  if c.dir = .mm2s then cfg.frameBytes.get c else x.toNat

theorem recordedLength_le {cfg : Config} {c : Chan} {x : Half} (h : c.dir = .s2mm → x.toNat ≤ cfg.frameBytes.get c) :
    recordedLength cfg c x ≤ cfg.frameBytes.get c := by
  unfold recordedLength
  cases hd : c.dir with
  | mm2s => exact le_refl _
  | s2mm => exact h hd

/-- The table of channel `c` after the drain's mark of a completion with count `x` (42 R92; 44 R110). -/
def Table.afterCompletion (table : Table) (cfg : Config) (c : Chan) (x : Half) : Table :=
  table.afterMark (cfg.capacity.get c) (recordedLength cfg c x)

/-- The steps of one iteration of DrainChannel: an S2MM channel has the STATUS read as well (44 R110). -/
def drainPeriod (c : Chan) : Nat := if c.dir = .mm2s then 3 else 4

/-- The state with the table of channel `c` replaced and `q` the completions of `c` that are left. -/
def State.drained (s : State) (tables : PerChan Table) (c : Chan) (table : Table) (q : List Half) : State :=
  { s with cmplQ := s.cmplQ.set c q }.withTable tables c table

/-- Thread `t` is before a READY read of a drain of channel `c` that retires all of the queued completions `q`. -/
structure State.Draining (s : State) (t : Nat) (i : Instr) (c : Chan) (n : Nat) (tables : PerChan Table)
    (q : List Half) : Prop where
  place : s.DrainAt t i n tables
  bus : s.BusReady
  noReset : s.resetAsserted = false
  queue : s.cmplQ.get c = q
  takes : (tables.get c).Takes (s.cfg.capacity.get c) (s.cfg.frameBytes.get c) (q.map (recordedLength s.cfg c))

section
variable {s u : State} {i : Instr} {t n bytes : Nat} {c : Chan} {tables : PerChan Table} {table : Table} {x : Half}
  {q : List Half}

theorem State.DrainAt.hasTurn (hd : s.DrainAt t i n tables) : s.HasTurn t := by
  rcases hd with ⟨ho, -⟩ | ho <;> exact ho.place.hasTurn

theorem State.DrainAt.opened (hd : s.DrainAt t i n tables) : s.dev = .opened tables := by
  rcases hd with ⟨ho, -⟩ | ho <;> exact ho.opened

theorem State.DrawsOnly.busReady (hu : s.DrawsOnly u) (hb : s.BusReady) : u.BusReady :=
  hb.of_eq hu.frame.1 (by rw [hu])

theorem State.DrawsOnly.exists_eq (hu : s.DrawsOnly u) : ∃ a k, u = { s with answers := a, drawn := k } := ⟨_, _, hu⟩

theorem State.HasTurn.openAt (h : u.HasTurn t) (hd : u.dev = .opened tables) (i : Instr) (p : Point) :
    (u.putAt t i p).OpenAt t i p tables := State.openAt_putAt h.turn h.exists_thread hd i p

/-- From the READY read to the mark: one step on an MM2S channel, and two with the STATUS read. -/
theorem State.Draining.execN_sees (h : s.Draining t i c n tables (x :: q)) (hi : DrainsChannel i c) :
    ∃ u, s.DrawsOnly u ∧ execN i (if c.dir = .mm2s then 1 else 2) s =
      .next (u.putAt t i (.drain (.mark n (recordedLength s.cfg c x)))) := by
  have hu := s.readRegister_drawsOnly .ready
  have hturn := h.place.hasTurn.of_same hu.sameHosts
  obtain ⟨done, hexec⟩ := h.place.exec_eq_drainStep hi
  have hsees := (execN_one i s).trans <|
    hexec.trans (h.bus.drainStep_sees h.place.turn (by rw [h.queue]; exact List.cons_ne_nil x q))
  refine ⟨_, hu, ?_⟩
  unfold recordedLength
  split
  · next hd =>
    rw [if_pos hd] at hsees
    exact hsees
  · next hd =>
    rw [if_neg hd] at hsees
    have hat := hturn.openAt (hu.frame.2.1.trans h.place.opened) i (.drain (.status n))
    have hqueue : ((s.readRegister .ready).2.putAt t i (.drain (.status n))).cmplQ.get c = x :: q :=
      (hu.sameChan c).cmplQ.trans h.queue
    have hbus : ((s.readRegister .ready).2.putAt t i (.drain (.status n))).BusReady := (hu.busReady h.bus).of_eq rfl rfl
    obtain ⟨done, hstatus⟩ := hat.exec_eq_drainStep hi
    refine execN_trans (m := 1) (n := 1) hsees ?_
    rw [execN_one, hstatus, hbus.drainStep_status hat.place.turn, State.readRegister_status_of_queued hqueue,
      State.putAt_putAt hturn.exists_thread]

/-- The mark and the acknowledgement. -/
theorem State.HasTurn.execN_retires (h : u.HasTurn t) (hb : u.BusReady) (hr : u.resetAsserted = false)
    (hd : u.dev = .opened tables)
    (hf : (tables.get c).markFault c (u.cfg.capacity.get c) (u.cfg.frameBytes.get c) bytes = none)
    (hi : DrainsChannel i c) :
    execN i 2 (u.putAt t i (.drain (.mark n bytes))) =
      .next ((u.drained tables c ((tables.get c).afterMark (u.cfg.capacity.get c) bytes) (u.cmplQ.get c).tail).putAt t i
        (.drain (.ready (n + 1)))) := by
  have hmark := h.openAt hd i (.drain (.mark n bytes))
  obtain ⟨done, hexec⟩ := hmark.exec_eq_drainStep hi
  have hmarked := hexec.trans (State.drainStep_marks hmark.place.turn hf)
  let v := u.withTable tables c ((tables.get c).afterMark (u.cfg.capacity.get c) bytes)
  have hv : v.HasTurn t := ⟨h.turn, h.exists_thread⟩
  have hack := hv.openAt rfl i (.drain (.ack n))
  obtain ⟨done, hexec⟩ := hack.exec_eq_drainStep hi
  have hacked := hexec.trans (State.BusReady.drainStep_acks (hb.of_eq rfl rfl) hack.place.turn hr)
  refine execN_trans (m := 1) (n := 1) (u := v.putAt t i (.drain (.ack n))) ?_ ?_
  · rw [execN_one, hmarked]
    exact congrArg Host.Outcome.next (State.putAt_putAt (u := v) h.exists_thread ..)
  · rw [execN_one, hacked]
    exact congrArg Host.Outcome.next (State.putAt_putAt (u := v.acked c) h.exists_thread ..)

theorem drainPeriod_eq (c : Chan) : drainPeriod c = (if c.dir = .mm2s then 1 else 2) + 2 := by
  unfold drainPeriod
  split <;> rfl

/-- One iteration retires the oldest completion. -/
theorem State.Draining.execN_iteration (h : s.Draining t i c n tables (x :: q)) (hi : DrainsChannel i c) :
    ∃ u, s.DrawsOnly u ∧ execN i (drainPeriod c) s = .next ((u.drained tables c
      ((tables.get c).afterCompletion s.cfg c x) q).putAt t i (.drain (.ready (n + 1)))) := by
  obtain ⟨u, hu, hsees⟩ := h.execN_sees hi
  have hcfg := hu.frame.1
  have hretires := (h.place.hasTurn.of_same hu.sameHosts).execN_retires (n := n) (hu.busReady h.bus)
    (by rw [hu]; exact h.noReset) (hu.frame.2.1.trans h.place.opened)
    (by rw [hcfg]; exact h.takes.markFault_none) hi
  rw [hcfg, (hu.sameChan c).cmplQ, h.queue] at hretires
  refine ⟨u, hu, ?_⟩
  rw [drainPeriod_eq]
  exact execN_trans hsees hretires

/-- What an iteration leaves is a drain of the remaining completions. -/
theorem State.Draining.after (h : s.Draining t i c n tables (x :: q)) (hu : s.DrawsOnly u) :
    ((u.drained tables c ((tables.get c).afterCompletion s.cfg c x) q).putAt t i
      (.drain (.ready (n + 1)))).Draining t i c (n + 1)
      (tables.set c ((tables.get c).afterCompletion s.cfg c x)) q := by
  obtain ⟨a, k, rfl⟩ := hu.exists_eq
  have hturn := h.place.hasTurn
  constructor
  · exact .inr (State.HasTurn.openAt (u := State.drained { s with answers := a, drawn := k } tables c _ q)
      ⟨hturn.turn, hturn.exists_thread⟩ rfl i _)
  · exact h.bus.of_eq rfl rfl
  · exact h.noReset
  · exact PerChan.get_set_same ..
  · rw [PerChan.get_set_same]
    exact h.takes.mark

/-! ### The whole of POLL_DRAIN (44 R112) -/

theorem State.drained_self (hd : u.dev = .opened tables) : u.drained tables c (tables.get c) (u.cmplQ.get c) = u := by
  rw [State.drained, State.withTable, PerChan.set_get_self, PerChan.set_get_self, ← hd]

theorem PerChan.set_set_same {α : Type} (m : PerChan α) (c : Chan) (x y : α) : (m.set c x).set c y = m.set c y := by
  cases c <;> rfl

theorem State.drained_drained (u : State) (tables : PerChan Table) (c : Chan) (a b : Table) (p q : List Half) :
    (u.drained tables c a p).drained (tables.set c a) c b q = u.drained tables c b q := by
  simp only [State.drained, State.withTable, PerChan.set_set_same]

/-- An iteration and then the rest of the drain leave what the whole drain leaves. -/
theorem State.drained_completes (hlt : t < u.threads.length) (p : Point) (a b : Table) (q rest : List Half) (st : Byte)
    (v0 v1 : Option Word64) :
    (((u.drained tables c a q).putAt t i p).drained (tables.set c a) c b rest).completes t st v0 v1 =
      (u.drained tables c b rest).completes t st v0 v1 := by
  rw [← State.drained_drained u tables c a b q rest]
  exact State.completes_putAt (s := (u.drained tables c a q).drained (tables.set c a) c b rest) hlt i p st v0 v1

/-- The table of channel `c` after a drain that retires the completions `q`. -/
def Table.afterDrain (table : Table) (cfg : Config) (c : Chan) (q : List Half) : Table :=
  table.afterMarks (cfg.capacity.get c) (q.map (recordedLength cfg c))

theorem Table.afterDrain_cons : table.afterDrain s.cfg c (x :: q) =
    (table.afterCompletion s.cfg c x).afterDrain s.cfg c q := rfl

/-- POLL_DRAIN retires the queued completions and then ends. -/
theorem State.Draining.execN_pollDrain (h : s.Draining t (.pollDrain c) c n tables q) :
    ∃ u, s.DrawsOnly u ∧ execN (.pollDrain c) (drainPeriod c * q.length + 1) s =
      .next ((u.drained tables c ((tables.get c).afterDrain s.cfg c q) []).completes t 0x00
        (some (BitVec.ofNat 64 (n + q.length)))
        (some (BitVec.ofNat 64 ((tables.get c).afterDrain s.cfg c q).avail))) := by
  induction q generalizing s n tables with
  | nil =>
    have hu := s.readRegister_drawsOnly .ready
    have hself := State.drained_self (c := c) (hu.frame.2.1.trans h.place.opened)
    rw [(hu.sameChan c).cmplQ, h.queue] at hself
    refine ⟨_, hu, ((execN_one _ s).trans (h.bus.execPollDrain_ends h.place h.queue)).trans ?_⟩
    rw [Table.afterDrain, List.map_nil, Table.afterMarks_nil, hself]
    rfl
  | cons x q ih =>
    obtain ⟨u, hu, hiteration⟩ := h.execN_iteration (.inl rfl)
    obtain ⟨v, hv, hrest⟩ := ih (h.after hu)
    obtain ⟨a, k, rfl⟩ := hu.exists_eq
    obtain ⟨a', k', rfl⟩ := hv.exists_eq
    refine ⟨{ s with answers := a', drawn := k' }, rfl, ?_⟩
    rw [List.length_cons, Nat.mul_succ, Nat.add_comm (_ * _), Nat.add_assoc, execN_trans hiteration hrest,
      PerChan.get_set_same, Table.afterDrain_cons, Nat.add_assoc n, Nat.add_comm 1]
    exact congrArg _ (State.drained_completes (u := { s with answers := a', drawn := k' })
      h.place.hasTurn.exists_thread _ _ _ q [] ..)

end

/-- Settles O44: the run is that of `State.Draining.execN_pollDrain`, and the table it leaves is the table after the marks of
the queued completions in order. -/
theorem drainRetiresEveryCompletion : Obligations.DrainRetiresEveryCompletion := by
  unfold Obligations.DrainRetiresEveryCompletion
  intro s t c tables ho hb hr table n frame k hinv hk hcounts
  have hlength : ((s.cmplQ.get c).map (recordedLength s.cfg c)).length = k := List.length_map _
  have htakes : table.Takes n frame ((s.cmplQ.get c).map (recordedLength s.cfg c)) := by
    refine ⟨hinv, hlength.trans_le hk, fun bytes hbytes => ?_⟩
    obtain ⟨x, hx, rfl⟩ := List.mem_map.mp hbytes
    exact recordedLength_le fun hd => hcounts hd x hx
  obtain ⟨u, hu, hrun⟩ := State.Draining.execN_pollDrain ⟨.inl ⟨ho, rfl⟩, hb, hr, rfl, htakes⟩
  have havail : (table.afterDrain s.cfg c (s.cmplQ.get c)).avail = table.avail + k :=
    Table.afterMarks_avail.trans (by rw [hlength])
  refine ⟨u, table.afterDrain s.cfg c (s.cmplQ.get c), hu, ?_, htakes.afterMarks_inv, Table.afterMarks_head,
    hlength ▸ htakes.afterMarks_tail, havail, hlength ▸ htakes.afterMarks_pendingCount, fun j hj => ?_, fun h hne => ?_⟩
  · obtain ⟨a, drawn, rfl⟩ := hu.exists_eq
    rw [Nat.zero_add, havail] at hrun
    exact hrun
  · obtain ⟨hslot, hlen⟩ := htakes.afterMarks_marked (hlength.symm ▸ hj)
    refine ⟨hslot, hlen.trans ?_⟩
    rw [List.getElem?_map, List.getElem?_eq_getElem hj]
    exact apply_ite some ..
  · exact htakes.afterMarks_other (hlength.symm ▸ hne)

end Sys2Proof.Machine
end

section
/-! PROOFS. A write of TIME_CTRL (spec 45 R115), in each of its cases, and REG_WR's write of it. -/

namespace Sys2Proof.Machine

open Sys2Proof

variable {s : State} {n : Nat} {x m : Half}

/-! ### The latch bits -/

/-- A word masked with one bit is that bit or zero. -/
theorem half_and_bit (x : Half) (k : Nat) : x &&& 1#16 <<< k = 0 ∨ x &&& 1#16 <<< k = 1#16 <<< k := by
  have hmask := BitVec.and_twoPow x k
  rw [BitVec.twoPow_eq] at hmask
  split at hmask
  · exact .inr hmask
  · exact .inl hmask

/-- A word with a bit of each of the two masks has both masks. -/
theorem and_latches_of_ne_zero {cfg : Config} (hin : x &&& cfg.latchIn ≠ 0) (hout : x &&& cfg.latchOut ≠ 0) :
    x &&& (cfg.latchIn ||| cfg.latchOut) = cfg.latchIn ||| cfg.latchOut := by
  have hbitIn : x &&& cfg.latchIn = cfg.latchIn := (half_and_bit x _).resolve_left hin
  have hbitOut : x &&& cfg.latchOut = cfg.latchOut := (half_and_bit x _).resolve_left hout
  rw [BitVec.and_or_distrib_left, hbitIn, hbitOut]

/-! ### The active edges -/

theorem latchEdgeActive_iff : latchEdgeActive s.cfg.latchEdge s.tc x m = true ↔ s.Edge x m := by
  unfold latchEdgeActive State.Edge
  cases s.cfg.latchEdge <;> simp

/-- One write over a `tc` without both latch bits makes at most one active edge. -/
theorem State.Edge.not_both (hin : s.Edge x s.cfg.latchIn) (hout : s.Edge x s.cfg.latchOut) (hx : ¬ s.BadTimeCtrl x)
    (htc : s.tc &&& (s.cfg.latchIn ||| s.cfg.latchOut) ≠ s.cfg.latchIn ||| s.cfg.latchOut) : False := by
  rcases hin with ⟨he, -, hin⟩ | ⟨he, hin, -⟩ <;> rcases hout with ⟨he', -, hout⟩ | ⟨he', hout, -⟩
  · exact hx (.inr (and_latches_of_ne_zero hin hout))
  · cases he.symm.trans he'
  · cases he.symm.trans he'
  · exact htc (and_latches_of_ne_zero hin hout)

/-! ### Latch-out -/

theorem State.latchOut_of_written {w0 w1 w2 w3 : Half} (h : s.wr = ⟨some w0, some w1, some w2, some w3⟩) :
    s.latchOut = { s with counter := joinTicks w0 w1 w2 w3 } := by
  simp only [State.latchOut, h]

theorem State.latchOut_of_unwritten {k : TimeField} (h : s.wr.get k = none) :
    s.latchOut = { s.draw.2 with counter := s.draw.1 } := by
  unfold State.latchOut
  split
  · next h0 h1 h2 h3 =>
    cases k with
    | t0 => cases h0.symm.trans h
    | t1 => cases h1.symm.trans h
    | t2 => cases h2.symm.trans h
    | t3 => cases h3.symm.trans h
  · rfl

/-! ### WriteTimeCtrl, case by case -/

/-- What the edges of a write of `x` to TIME_CTRL leave (45 R115): the latch-in edge acts first. -/
def State.latched (s : State) (x : Half) : State :=
  let latchedIn := if latchEdgeActive s.cfg.latchEdge s.tc x s.cfg.latchIn then s.latchIn else s
  if latchEdgeActive s.cfg.latchEdge s.tc x s.cfg.latchOut then latchedIn.latchOut else latchedIn

/-- The state after a write of `x` to TIME_CTRL that is not refused. -/
def State.timeCtrlWritten (s : State) (x : Half) : State := { s.latched x with tc := x }

theorem State.writeTimeCtrl_of_accepted (hx : ¬ s.BadTimeCtrl x) :
    s.writeTimeCtrl n x = .done () (s.timeCtrlWritten x) :=
  if_neg fun h => hx (State.timeCtrlRefuses_iff.mp h)

theorem State.latched_of_no_edge (hin : ¬ s.Edge x s.cfg.latchIn) (hout : ¬ s.Edge x s.cfg.latchOut) :
    s.latched x = s := by
  rw [State.latched, if_neg (mt latchEdgeActive_iff.mp hin), if_neg (mt latchEdgeActive_iff.mp hout)]

theorem State.latched_of_latchIn (hin : s.Edge x s.cfg.latchIn) (hout : ¬ s.Edge x s.cfg.latchOut) :
    s.latched x = s.latchIn := by
  rw [State.latched, if_pos (latchEdgeActive_iff.mpr hin), if_neg (mt latchEdgeActive_iff.mp hout)]

theorem State.latched_of_latchOut (hin : ¬ s.Edge x s.cfg.latchIn) (hout : s.Edge x s.cfg.latchOut) :
    s.latched x = s.latchOut := by
  rw [State.latched, if_neg (mt latchEdgeActive_iff.mp hin), if_pos (latchEdgeActive_iff.mpr hout)]

/-- Settles O23: REG_WR completes or faults as its write of TIME_CTRL does, in each case of its edges. -/
theorem timeCtrlWrite : Obligations.TimeCtrlWrite := by
  unfold Obligations.TimeCtrlWrite
  intro s t off v tables h hb hoff x latchIn latchOut done
  refine ⟨fun hbad => execRegWr_of_refuse (r := .timeCtrl) h hb hoff (State.writeTimeCtrl_refused hbad), fun hx => ?_⟩
  have hexec (l : List Word64) := execRegWr_of_done (r := .timeCtrl) (h.withAnswers l) (hb.withAnswers l) hoff
    (State.writeTimeCtrl_of_accepted (s := { s with answers := l }) hx)
  have hself := hexec s.answers
  refine ⟨fun hin hout => ?_, fun hin hout => ?_, fun hin hout => ⟨fun w0 w1 w2 w3 hw => ?_, ?_⟩,
    fun htc hboth => hboth.1.not_both hboth.2 hx htc⟩
  · rw [hself, State.timeCtrlWritten, State.latched_of_no_edge hin hout]
  · rw [hself, State.timeCtrlWritten, State.latched_of_latchIn hin hout]
    rfl
  · rw [hself, State.timeCtrlWritten, State.latched_of_latchOut hin hout, State.latchOut_of_written hw]
    rfl
  · rintro ⟨k, hk⟩
    have hdraws (l : List Word64) : { s with answers := l }.latched x =
        { { s with answers := l }.draw.2 with counter := { s with answers := l }.draw.1 } :=
      (State.latched_of_latchOut (s := { s with answers := l }) hin hout).trans (State.latchOut_of_unwritten hk)
    refine ⟨⟨s.draw.2, s.draw.1, s.draw_drawsOnly, ?_⟩, fun a rest => ?_⟩
    · rw [hself, State.timeCtrlWritten, hdraws]
    · rw [hexec, State.timeCtrlWritten, hdraws]
      rfl

end Sys2Proof.Machine
end

section
/-! PROOFS. A pulse of a latch bit of TIME_CTRL (spec 45 R115, R117, R118): its two writes are accepted, and under
either latch edge one of them makes the active edge, with the ticks of the CLOCK between them after it or before it. -/

namespace Sys2Proof.Machine

open Sys2Proof

variable {s v : State} {cfg : Config} {m other : Half} {ticks : Word64} {j k : Nat}

/-! ### The masks of the two latch bits -/

theorem bit_ne_zero (hk : k ≤ 15) : (1#16 <<< k : Half) ≠ 0 := by
  intro h
  have hbit := BitVec.getLsbD_twoPow (w := 16) k k
  rw [BitVec.twoPow_eq, h] at hbit
  simp at hbit
  omega

theorem bit_and_bit (h : j ≠ k) : (1#16 <<< j : Half) &&& 1#16 <<< k = 0 := by
  have hmask := BitVec.and_twoPow (BitVec.twoPow 16 j) k
  rw [BitVec.getLsbD_twoPow, decide_eq_false h, Bool.and_false] at hmask
  exact hmask

section
variable (hwf : cfg.wf = true)
include hwf

theorem latchIn_ne_zero : cfg.latchIn ≠ 0 := by
  obtain ⟨hin, -⟩ := of_decide_eq_true (Config.wf_scalarsOk hwf)
  exact bit_ne_zero hin

theorem latchOut_ne_zero : cfg.latchOut ≠ 0 := by
  obtain ⟨-, hout, -⟩ := of_decide_eq_true (Config.wf_scalarsOk hwf)
  exact bit_ne_zero hout

theorem latchIn_and_latchOut : cfg.latchIn &&& cfg.latchOut = 0 := by
  obtain ⟨-, -, hne, -⟩ := of_decide_eq_true (Config.wf_scalarsOk hwf)
  exact bit_and_bit hne

theorem latchOut_and_latchIn : cfg.latchOut &&& cfg.latchIn = 0 :=
  (BitVec.and_comm ..).trans (latchIn_and_latchOut hwf)

end

/-! ### Writes that a pulse makes are accepted -/

/-- A mask lies within itself and another, and is not both where the other is apart from it. -/
theorem mask_within (hapart : m &&& other = 0) (hother : other ≠ 0) :
    m &&& ~~~(m ||| other) = 0 ∧ m &&& (m ||| other) ≠ m ||| other := by
  have hm : m &&& (m ||| other) = m := by
    rw [BitVec.and_or_distrib_left, BitVec.and_self, hapart]
    exact BitVec.or_zero
  refine ⟨by ext; grind, fun h => hother ?_⟩
  calc other = (m ||| other) &&& other := by ext; grind
    _ = 0 := by rw [← h, hm, hapart]

theorem State.latchIn_accepted (hwf : s.cfg.wf = true) : ¬ s.BadTimeCtrl s.cfg.latchIn := by
  obtain ⟨hdefined, hboth⟩ := mask_within (latchIn_and_latchOut hwf) (latchOut_ne_zero hwf)
  exact fun h => h.elim (absurd hdefined) hboth

theorem State.latchOut_accepted (hwf : s.cfg.wf = true) : ¬ s.BadTimeCtrl s.cfg.latchOut := by
  obtain ⟨hdefined, hboth⟩ := mask_within (latchOut_and_latchIn hwf) (latchIn_ne_zero hwf)
  rw [BitVec.or_comm] at hdefined hboth
  exact fun h => h.elim (absurd hdefined) hboth

theorem State.zero_accepted (hwf : s.cfg.wf = true) : ¬ s.BadTimeCtrl 0 := by
  intro h
  rcases h with h | h
  · exact h BitVec.zero_and
  · refine latchIn_ne_zero hwf ?_
    have hmasks : s.cfg.latchIn ||| s.cfg.latchOut = 0 := h.symm.trans BitVec.zero_and
    exact (BitVec.or_eq_zero_iff.mp hmasks).1

/-! ### The edges of a pulse -/

/-- The write that sets the bit `m` makes its edge where the rising edge is the active one, and no edge of the other. -/
theorem State.PulseWorks.edges (h : s.PulseWorks m other) (hm : m ≠ 0) (hapart : m &&& other = 0) :
    (s.Edge m m ↔ s.cfg.latchEdge = .rising) ∧ ¬ s.Edge m other := by
  unfold State.PulseWorks at h
  unfold State.Edge
  cases he : s.cfg.latchEdge with
  | rising =>
    rw [he] at h
    simpa [h, hapart] using hm
  | falling =>
    rw [he] at h
    simpa [h] using fun _ => hm

/-- The write that clears it makes its edge where the falling edge is the active one. -/
theorem State.edges_of_clear (htc : s.tc = m) (hm : m ≠ 0) (hapart : m &&& other = 0) :
    (s.Edge 0 m ↔ s.cfg.latchEdge = .falling) ∧ ¬ s.Edge 0 other := by
  unfold State.Edge
  rw [htc]
  cases s.cfg.latchEdge with
  | rising => simp
  | falling => simpa [hapart] using hm

section
variable (hwf : s.cfg.wf = true)
include hwf

theorem State.latched_setIn (h : s.PulseWorks s.cfg.latchIn s.cfg.latchOut) :
    s.latched s.cfg.latchIn = if s.cfg.latchEdge = .rising then s.latchIn else s := by
  obtain ⟨hin, hout⟩ := h.edges (latchIn_ne_zero hwf) (latchIn_and_latchOut hwf)
  split
  · next he => exact State.latched_of_latchIn (hin.mpr he) hout
  · next he => exact State.latched_of_no_edge (mt hin.mp he) hout

theorem State.latched_clearIn (htc : s.tc = s.cfg.latchIn) :
    s.latched 0 = if s.cfg.latchEdge = .falling then s.latchIn else s := by
  obtain ⟨hin, hout⟩ := State.edges_of_clear htc (latchIn_ne_zero hwf) (latchIn_and_latchOut hwf)
  split
  · next he => exact State.latched_of_latchIn (hin.mpr he) hout
  · next he => exact State.latched_of_no_edge (mt hin.mp he) hout

theorem State.latched_setOut (h : s.PulseWorks s.cfg.latchOut s.cfg.latchIn) :
    s.latched s.cfg.latchOut = if s.cfg.latchEdge = .rising then s.latchOut else s := by
  obtain ⟨hout, hin⟩ := h.edges (latchOut_ne_zero hwf) (latchOut_and_latchIn hwf)
  split
  · next he => exact State.latched_of_latchOut hin (hout.mpr he)
  · next he => exact State.latched_of_no_edge hin (mt hout.mp he)

theorem State.latched_clearOut (htc : s.tc = s.cfg.latchOut) :
    s.latched 0 = if s.cfg.latchEdge = .falling then s.latchOut else s := by
  obtain ⟨hout, hin⟩ := State.edges_of_clear htc (latchOut_ne_zero hwf) (latchOut_and_latchIn hwf)
  split
  · next he => exact State.latched_of_latchOut hin (hout.mpr he)
  · next he => exact State.latched_of_no_edge hin (mt hout.mp he)

end

/-! ### Ticks of the CLOCK -/

theorem State.ticks_eq (s : State) (k : Nat) : s.ticks k = { s with counter := s.counter + BitVec.ofNat 64 k } := by
  induction k generalizing s with
  | zero =>
    rw [BitVec.add_zero]
    rfl
  | succ k ih =>
    rw [State.ticks, ih, Nat.add_comm k 1, BitVec.ofNat_add, ← BitVec.add_assoc]
    rfl

/-- How many of `d` ticks between the two writes of a pulse come before its active edge. -/
def ticksBefore : Sys2Proof.Edge → Nat → Nat
  | .rising, _ => 0
  | .falling, d => d

theorem joinTicks_tickField (n : Word64) :
    joinTicks (tickField n .t0) (tickField n .t1) (tickField n .t2) (tickField n .t3) = n := by
  unfold joinTicks tickField
  have join {hi lo k w : Nat} (h : hi = lo + w) : n.extractLsb' hi k ++ n.extractLsb' lo w = n.extractLsb' lo (k + w) :=
    BitVec.extractLsb'_append_extractLsb'_eq_extractLsb' h
  rw [join (by rfl), join (by rfl), join (by rfl)]
  exact BitVec.extractLsb'_eq_self

/-! ### The two pulses -/

theorem State.timeCtrlWritten_of_latched (h : s.latched m = v) : s.timeCtrlWritten m = { v with tc := m } := by
  rw [State.timeCtrlWritten, h]

/-- The latch-in pulse with `d` ticks between its writes (45 R117). -/
theorem State.latchIn_pulse (hwf : s.cfg.wf = true) (h : s.PulseWorks s.cfg.latchIn s.cfg.latchOut) (d : Nat) :
    ((s.timeCtrlWritten s.cfg.latchIn).ticks d).timeCtrlWritten 0 = { s with
      counter := s.counter + BitVec.ofNat 64 d
      snap := tickFields (s.counter + BitVec.ofNat 64 (ticksBefore s.cfg.latchEdge d))
      wr := .all none
      tc := 0 } := by
  rw [State.timeCtrlWritten_of_latched (State.latched_setIn hwf h), State.ticks_eq]
  cases he : s.cfg.latchEdge with
  | rising =>
    have hrising : s.cfg.latchEdge ≠ .falling := by rw [he]; nofun
    let u : State := { s.latchIn with tc := s.cfg.latchIn, counter := s.counter + BitVec.ofNat 64 d }
    have hclear : u.latched 0 = u := (State.latched_clearIn (s := u) hwf rfl).trans (if_neg hrising)
    rw [ticksBefore, BitVec.add_zero]
    exact State.timeCtrlWritten_of_latched hclear
  | falling =>
    let u : State := { s with tc := s.cfg.latchIn, counter := s.counter + BitVec.ofNat 64 d }
    have hclear : u.latched 0 = u.latchIn := (State.latched_clearIn (s := u) hwf rfl).trans (if_pos he)
    exact State.timeCtrlWritten_of_latched hclear

/-- The latch-out pulse with `d` ticks between its writes, after writes of the four fields of `ticks` (45 R118). -/
theorem State.latchOut_pulse (hwf : s.cfg.wf = true) (h : s.PulseWorks s.cfg.latchOut s.cfg.latchIn)
    (hw : s.wr = tickFields ticks) (d : Nat) :
    ((s.timeCtrlWritten s.cfg.latchOut).ticks d).timeCtrlWritten 0 = { s with
      counter := ticks + BitVec.ofNat 64 (d - ticksBefore s.cfg.latchEdge d)
      tc := 0 } := by
  have hcommit (u : State) (hu : u.wr = s.wr) : u.latchOut = { u with counter := ticks } := by
    rw [State.latchOut_of_written (hu.trans hw), joinTicks_tickField]
  rw [State.timeCtrlWritten_of_latched (State.latched_setOut hwf h), hcommit s rfl, State.ticks_eq]
  cases he : s.cfg.latchEdge with
  | rising =>
    have hrising : s.cfg.latchEdge ≠ .falling := by rw [he]; nofun
    let u : State := { s with tc := s.cfg.latchOut, counter := ticks + BitVec.ofNat 64 d }
    have hclear : u.latched 0 = u := (State.latched_clearOut (s := u) hwf rfl).trans (if_neg hrising)
    exact State.timeCtrlWritten_of_latched hclear
  | falling =>
    let u : State := { s with tc := s.cfg.latchOut, counter := s.counter + BitVec.ofNat 64 d }
    have hclear : u.latched 0 = { u with counter := ticks } :=
      ((State.latched_clearOut (s := u) hwf rfl).trans (if_pos he)).trans (hcommit u rfl)
    rw [ticksBefore, Nat.sub_self, BitVec.add_zero]
    exact State.timeCtrlWritten_of_latched hclear

end Sys2Proof.Machine
end

section
/-! PROOFS. CLK_GET and CLK_SET (spec 45 R117, R118): each of their bus steps on an energised bus, and a whole
command with no other agent between its steps. -/

namespace Sys2Proof.Machine

open Sys2Proof

variable {s u v : State} {t : Nat} {i : Instr} {p : Point} {tables : PerChan Table} {r : Reg} {x : Half}
  {w ns : Word64}

/-! ### A bus step of thread `t` -/

/-- Thread `t` is there and next to step, the device is OPEN, and bus steps are enabled on an energised bus. -/
structure State.Operates (s : State) (t : Nat) (tables : PerChan Table) : Prop where
  hasTurn : s.HasTurn t
  bus : s.BusReady
  opened : s.dev = .opened tables

theorem State.OpenAt.operates (ho : s.OpenAt t i p tables) (hb : s.BusReady) : s.Operates t tables :=
  ⟨ho.place.hasTurn, hb, ho.opened⟩

theorem State.Operates.of_sameBlock (h : s.Operates t tables) (hu : s.SameBlock u) : u.Operates t tables := by
  obtain ⟨hcfg, hturn, -, hthreads, hdev, -, hbus, -⟩ := hu
  exact ⟨⟨hturn.trans h.hasTurn.turn, hthreads ▸ h.hasTurn.exists_thread⟩, h.bus.of_eq hcfg hbus, hdev.trans h.opened⟩

theorem State.DrawsOnly.sameBlock (h : s.DrawsOnly u) : s.SameBlock u := by
  rw [h]
  exact ⟨rfl, rfl, rfl, rfl, rfl, rfl, rfl, rfl, rfl, rfl, rfl, rfl, rfl⟩

theorem State.Operates.of_read (h : s.Operates t tables) (hr : s.readRegister r = (x, u)) : u.Operates t tables :=
  h.of_sameBlock (State.drawsOnly_of_readRegister hr).sameBlock

theorem State.ticks_sameBlock (s : State) (k : Nat) : s.SameBlock (s.ticks k) := by
  rw [State.ticks_eq]
  exact ⟨rfl, rfl, rfl, rfl, rfl, rfl, rfl, rfl, rfl, rfl, rfl, rfl, rfl⟩

theorem State.timeCtrlWritten_sameBlock (hx : ¬ s.BadTimeCtrl x) : s.SameBlock (s.timeCtrlWritten x) :=
  State.writeRegister_sameBlock (r := .timeCtrl) (off := 0) (State.writeTimeCtrl_of_accepted hx)

theorem State.SameBlock.trans (h : s.SameBlock u) (k : u.SameBlock v) : s.SameBlock v := by
  obtain ⟨h1, h2, h3, h4, h5, h6, h7, h8, h9, h10, h11, h12, h13⟩ := h
  obtain ⟨k1, k2, k3, k4, k5, k6, k7, k8, k9, k10, k11, k12, k13⟩ := k
  exact ⟨k1.trans h1, k2.trans h2, k3.trans h3, k4.trans h4, k5.trans h5, k6.trans h6, k7.trans h7, k8.trans h8,
    k9.trans h9, k10.trans h10, k11.trans h11, k12.trans h12, k13.trans h13⟩

theorem State.SameBlock.outside (h : s.SameBlock u) : u.dev = s.dev ∧ u.mem = s.mem ∧ u.faults = s.faults := by
  obtain ⟨-, -, -, -, hdev, -, -, hfaults, -, -, -, -, hmem⟩ := h
  exact ⟨hdev, hmem, hfaults⟩

theorem State.SameBlock.thread (h : s.SameBlock u) (t : Nat) : u.thread t = s.thread t := by
  obtain ⟨-, -, -, hthreads, -⟩ := h
  exact State.thread_congr hthreads t

theorem State.At.putAt_self (h : s.At t i p) : s.putAt t i p = s := by
  rw [State.putAt, ← h.running]
  exact State.setThread_self s t

/-- What completing a command leaves does not depend on where in the command the thread is. -/
theorem State.HasTurn.finished_putAt (h : v.HasTurn t) (st : Status) (a b : Option Word64) :
    (v.putAt t i p).finished st a b =
      v.completes t st.code (orKeep a (v.thread t).rv0) (orKeep b (v.thread t).rv1) := by
  rw [State.finished_eq (s := v.putAt t i p) h.turn, State.completes_putAt h.exists_thread, State.putAt,
    State.thread_setThread_same v _ h.exists_thread]

theorem State.HasTurn.goto_putAt (h : v.HasTurn t) (i j : Instr) (p q : Point) :
    (v.putAt t i p).goto j q = v.putAt t j q :=
  (State.goto_of_host (s := v.putAt t i p) h.turn j q).trans (State.putAt_putAt h.exists_thread i j p q)

/-- A step that answers a next state, and the steps after it. -/
theorem execN_succ_of_next {n : Nat} (h : exec i s = .next u) : execN i (n + 1) s = execN i n u := by
  rw [execN, h]

section
variable (h : u.Operates t tables)
include h

theorem State.Operates.openAt (i : Instr) (p : Point) : (u.putAt t i p).OpenAt t i p tables :=
  h.hasTurn.openAt h.opened i p

theorem State.Operates.writeTimeField (f : TimeField) (x : Half) : (u.writeTimeField f x).Operates t tables :=
  h.of_sameBlock (State.writeRegister_sameBlock (r := .time f) (off := 0) rfl)

theorem State.Operates.bus_putAt (i : Instr) (p : Point) : (u.putAt t i p).BusReady := h.bus.of_eq rfl rfl

theorem State.Operates.onRead (hr : u.readRegister r = (x, v)) (k : Half → State → Result) :
    (u.putAt t i p).onAccess ((u.putAt t i p).regRead (u.cfg.off r)) k = k x (v.putAt t i p) := by
  refine ((h.bus_putAt i p).onRegRead r k).trans ?_
  rw [State.readRegister_putAt, hr]

theorem State.Operates.onTimeFieldWrite (f : TimeField) (k : Unit → State → Result) :
    (u.putAt t i p).onAccess ((u.putAt t i p).regWrite (u.cfg.off (.time f)) (x.setWidth 64)) k =
      k () ((u.writeTimeField f x).putAt t i p) := by
  refine (h.bus_putAt i p).onRegWrite (r := .time f) ?_ k
  rw [setWidth_half_word]
  rfl

end

/-! ### WriteTimeCtrl does not look at the threads -/

theorem State.latchOut_putAt (u : State) (t : Nat) (i : Instr) (p : Point) :
    (u.putAt t i p).latchOut = u.latchOut.putAt t i p := by
  have hdraw : (u.putAt t i p).draw = (u.draw.1, u.draw.2.putAt t i p) := by
    simp only [State.draw, State.putAt_answers]
    cases u.answers <;> rfl
  unfold State.latchOut
  rw [State.putAt_wr, hdraw]
  split <;> rfl

theorem State.timeCtrlWritten_putAt (u : State) (t : Nat) (i : Instr) (p : Point) (x : Half) :
    (u.putAt t i p).timeCtrlWritten x = (u.timeCtrlWritten x).putAt t i p := by
  have hin : (u.putAt t i p).latchIn = u.latchIn.putAt t i p := rfl
  have hlatched : (u.putAt t i p).latched x = (u.latched x).putAt t i p := by
    unfold State.latched
    rw [hin, State.putAt_cfg, State.putAt_tc]
    split <;> split <;> simp only [State.latchOut_putAt]
  exact State.timeCtrlWritten_of_latched hlatched

theorem State.Operates.onTimeCtrlWrite (h : u.Operates t tables) (hx : ¬ u.BadTimeCtrl x) (hw : w.setWidth 16 = x)
    (k : Unit → State → Result) :
    (u.putAt t i p).onAccess ((u.putAt t i p).regWrite (u.cfg.off .timeCtrl) w) k =
      k () ((u.timeCtrlWritten x).putAt t i p) := by
  refine (h.bus_putAt i p).onRegWrite (r := .timeCtrl) ?_ k
  rw [hw, ← State.timeCtrlWritten_putAt]
  exact State.writeTimeCtrl_of_accepted (s := u.putAt t i p) hx

section
variable (h : u.Operates t tables)
include h

theorem State.Operates.latchedIn : (u.timeCtrlWritten u.cfg.latchIn).Operates t tables :=
  h.of_sameBlock (State.timeCtrlWritten_sameBlock (State.latchIn_accepted h.bus.wf))

theorem State.Operates.latchedOut : (u.timeCtrlWritten u.cfg.latchOut).Operates t tables :=
  h.of_sameBlock (State.timeCtrlWritten_sameBlock (State.latchOut_accepted h.bus.wf))

theorem State.Operates.latchCleared : (u.timeCtrlWritten 0).Operates t tables :=
  h.of_sameBlock (State.timeCtrlWritten_sameBlock (State.zero_accepted h.bus.wf))

end

/-! ### The steps of CLK_GET (45 R117) -/

section
variable (h : u.Operates t tables)
include h

theorem State.Operates.execClkGet_latchSet : exec .clkGet (u.putAt t .clkGet .start) =
    .next ((u.timeCtrlWritten u.cfg.latchIn).putAt t .clkGet (.clkGet .latchClear)) := by
  rw [exec, execClkGet, (h.openAt .clkGet .start).commandStep nofun]
  refine (h.onTimeCtrlWrite (State.latchIn_accepted h.bus.wf) (setWidth_half_word _) _).trans (congrArg _ ?_)
  exact h.latchedIn.hasTurn.goto_putAt ..

theorem State.Operates.execClkGet_latchClear : exec .clkGet (u.putAt t .clkGet (.clkGet .latchClear)) =
    .next ((u.timeCtrlWritten 0).putAt t .clkGet (.clkGet .field0)) := by
  rw [exec, execClkGet, (h.openAt .clkGet (.clkGet .latchClear)).commandStep nofun]
  refine (h.onTimeCtrlWrite (State.zero_accepted h.bus.wf) rfl _).trans (congrArg _ ?_)
  exact h.latchCleared.hasTurn.goto_putAt ..

/-- The four reads: the ticks are the four values read, in order. -/
theorem State.Operates.execN_clkGet_fields {f0 f1 f2 f3 : Half} {u0 u1 u2 : State}
    (h0 : u.readRegister (.time .t0) = (f0, u0)) (h1 : u0.readRegister (.time .t1) = (f1, u1))
    (h2 : u1.readRegister (.time .t2) = (f2, u2)) (h3 : u2.readRegister (.time .t3) = (f3, v)) :
    execN .clkGet 4 (u.putAt t .clkGet (.clkGet .field0)) = .next (v.completes t 0x00
      (some (u.cfg.ticksToNs (joinTicks f0 f1 f2 f3))) (some (joinTicks f0 f1 f2 f3))) := by
  have ho0 := h.of_read h0
  have ho1 := ho0.of_read h1
  have ho2 := ho1.of_read h2
  have ho3 := ho2.of_read h3
  have hread0 : exec .clkGet (u.putAt t .clkGet (.clkGet .field0)) =
      .next (u0.putAt t .clkGet (.clkGet (.field1 f0))) := by
    rw [exec, execClkGet, (h.openAt .clkGet (.clkGet .field0)).commandStep nofun]
    exact (h.onRead h0 _).trans (congrArg _ (ho0.hasTurn.goto_putAt ..))
  have hread1 : exec .clkGet (u0.putAt t .clkGet (.clkGet (.field1 f0))) =
      .next (u1.putAt t .clkGet (.clkGet (.field2 f0 f1))) := by
    rw [exec, execClkGet, (ho0.openAt .clkGet (.clkGet (.field1 f0))).commandStep nofun]
    exact (ho0.onRead h1 _).trans (congrArg _ (ho1.hasTurn.goto_putAt ..))
  have hread2 : exec .clkGet (u1.putAt t .clkGet (.clkGet (.field2 f0 f1))) =
      .next (u2.putAt t .clkGet (.clkGet (.field3 f0 f1 f2))) := by
    rw [exec, execClkGet, (ho1.openAt .clkGet (.clkGet (.field2 f0 f1))).commandStep nofun]
    exact (ho1.onRead h2 _).trans (congrArg _ (ho2.hasTurn.goto_putAt ..))
  have hread3 : exec .clkGet (u2.putAt t .clkGet (.clkGet (.field3 f0 f1 f2))) = .next (v.completes t 0x00
      (some (u2.cfg.ticksToNs (joinTicks f0 f1 f2 f3))) (some (joinTicks f0 f1 f2 f3))) := by
    rw [exec, execClkGet, (ho2.openAt .clkGet (.clkGet (.field3 f0 f1 f2))).commandStep nofun]
    exact (ho2.onRead h3 _).trans (congrArg _ (ho3.hasTurn.finished_putAt ..))
  have hcfg : u2.cfg = u.cfg := (State.drawsOnly_of_readRegister h2).frame.1.trans <|
    (State.drawsOnly_of_readRegister h1).frame.1.trans (State.drawsOnly_of_readRegister h0).frame.1
  rw [execN_succ_of_next hread0, execN_succ_of_next hread1, execN_succ_of_next hread2, execN_one, hread3, hcfg]

/-- After a latch-in the reads give the counter at its edge, without a draw. -/
theorem State.Operates.execN_clkGet_latched (hsnap : u.snap = tickFields w) :
    execN .clkGet 4 (u.putAt t .clkGet (.clkGet .field0)) =
      .next (u.completes t 0x00 (some (u.cfg.ticksToNs w)) (some w)) := by
  have hread (k : TimeField) : u.readRegister (.time k) = (tickField w k, u) := by
    rw [State.readRegister, hsnap]
    cases k <;> rfl
  rw [h.execN_clkGet_fields (hread .t0) (hread .t1) (hread .t2) (hread .t3), joinTicks_tickField]

end

/-! ### The steps of CLK_SET (45 R118) -/

/-- The state after writes of the four fields of the ticks `w` (45 R114). -/
def State.fieldsWritten (u : State) (w : Word64) : State := { u with wr := tickFields w, snap := .all none }

theorem State.fieldsWritten_sameBlock (u : State) (w : Word64) : u.SameBlock (u.fieldsWritten w) :=
  ⟨rfl, rfl, rfl, rfl, rfl, rfl, rfl, rfl, rfl, rfl, rfl, rfl, rfl⟩

section
variable (h : u.Operates t tables)
include h

/-- One write of a field of the ticks `w`: the program points before it and after it, and the field. -/
theorem State.Operates.execClkSet_field (hw : u.cfg.nsToTicks ns = w) {f : TimeField} {q : ClkSetPoint}
    (hp : (p = .start ∧ f = .t0 ∧ q = .field1) ∨ (p = .clkSet .field1 ∧ f = .t1 ∧ q = .field2) ∨
      (p = .clkSet .field2 ∧ f = .t2 ∧ q = .field3) ∨ (p = .clkSet .field3 ∧ f = .t3 ∧ q = .latchOut)) :
    exec (.clkSet ns) (u.putAt t (.clkSet ns) p) =
      .next ((u.writeTimeField f (tickField w f)).putAt t (.clkSet ns) (.clkSet q)) := by
  have hcut : p ≠ .cut := by
    rintro rfl
    simp at hp
  have hexec : exec (.clkSet ns) (u.putAt t (.clkSet ns) p) = (u.putAt t (.clkSet ns) p).setClockField ns f q := by
    rw [exec, execClkSet, (h.openAt (.clkSet ns) p).commandStep hcut]
    rcases hp with ⟨rfl, rfl, rfl⟩ | ⟨rfl, rfl, rfl⟩ | ⟨rfl, rfl, rfl⟩ | ⟨rfl, rfl, rfl⟩ <;> rfl
  subst hw
  refine (hexec.trans (h.onTimeFieldWrite f _)).trans (congrArg _ ?_)
  exact (h.writeTimeField f _).hasTurn.goto_putAt ..

theorem State.Operates.execN_clkSet_fields (hw : u.cfg.nsToTicks ns = w) :
    execN (.clkSet ns) 4 (u.putAt t (.clkSet ns) .start) =
      .next ((u.fieldsWritten w).putAt t (.clkSet ns) (.clkSet .latchOut)) := by
  have h1 := h.writeTimeField .t0 (tickField w .t0)
  have h2 := h1.writeTimeField .t1 (tickField w .t1)
  have h3 := h2.writeTimeField .t2 (tickField w .t2)
  rw [execN_succ_of_next (h.execClkSet_field hw (.inl ⟨rfl, rfl, rfl⟩)),
    execN_succ_of_next (h1.execClkSet_field hw (.inr (.inl ⟨rfl, rfl, rfl⟩))),
    execN_succ_of_next (h2.execClkSet_field hw (.inr (.inr (.inl ⟨rfl, rfl, rfl⟩)))), execN_one,
    h3.execClkSet_field hw (.inr (.inr (.inr ⟨rfl, rfl, rfl⟩)))]
  rfl

theorem State.Operates.fieldsWritten (w : Word64) : (u.fieldsWritten w).Operates t tables :=
  h.of_sameBlock (u.fieldsWritten_sameBlock w)

theorem State.Operates.execClkSet_latchOut : exec (.clkSet ns) (u.putAt t (.clkSet ns) (.clkSet .latchOut)) =
    .next ((u.timeCtrlWritten u.cfg.latchOut).putAt t (.clkSet ns) (.clkSet .latchClear)) := by
  rw [exec, execClkSet, (h.openAt (.clkSet ns) (.clkSet .latchOut)).commandStep nofun]
  refine (h.onTimeCtrlWrite (State.latchOut_accepted h.bus.wf) (setWidth_half_word _) _).trans (congrArg _ ?_)
  exact h.latchedOut.hasTurn.goto_putAt ..

theorem State.Operates.execClkSet_latchClear (hw : u.cfg.nsToTicks ns = w) :
    exec (.clkSet ns) (u.putAt t (.clkSet ns) (.clkSet .latchClear)) =
      .next ((u.timeCtrlWritten 0).completes t 0x00 (some w) (u.thread t).rv1) := by
  have hx := State.zero_accepted h.bus.wf
  rw [exec, execClkSet, (h.openAt (.clkSet ns) (.clkSet .latchClear)).commandStep nofun]
  refine (h.onTimeCtrlWrite hx rfl _).trans (congrArg Host.Outcome.next ?_)
  refine (h.latchCleared.hasTurn.finished_putAt ..).trans ?_
  rw [(State.timeCtrlWritten_sameBlock hx).thread, ← hw]
  rfl

/-- The run to the end of the latch-out pulse's first write. -/
theorem State.Operates.execN_clkSet_latchOut (hw : u.cfg.nsToTicks ns = w) :
    execN (.clkSet ns) 5 (u.putAt t (.clkSet ns) .start) =
      .next (((u.fieldsWritten w).timeCtrlWritten u.cfg.latchOut).putAt t (.clkSet ns) (.clkSet .latchClear)) :=
  execN_trans (m := 4) (n := 1) (h.execN_clkSet_fields hw) <|
    (execN_one _ _).trans (h.fieldsWritten w).execClkSet_latchOut

end

/-! ### The whole commands, with ticks of the CLOCK inside a pulse -/

/-- The state after a latch-in pulse with `d` ticks between its writes: `State.latchIn_pulse` is what it holds. -/
def State.snapshot (u : State) (d : Nat) : State := ((u.timeCtrlWritten u.cfg.latchIn).ticks d).timeCtrlWritten 0

/-- The state after writes of the four fields of `w` and a latch-out pulse with `a` ticks between its writes:
`State.latchOut_pulse` is what it holds. -/
def State.committed (u : State) (w : Word64) (a : Nat) : State :=
  (((u.fieldsWritten w).timeCtrlWritten u.cfg.latchOut).ticks a).timeCtrlWritten 0

theorem State.ticks_putAt (u : State) (t : Nat) (i : Instr) (p : Point) (k : Nat) :
    (u.putAt t i p).ticks k = (u.ticks k).putAt t i p := by
  rw [State.ticks_eq, State.ticks_eq]
  rfl

theorem State.HasTurn.completes_results (h : v.HasTurn t) (st : Byte) (a b : Option Word64) :
    let th := (v.completes t st a b).thread t
    th.running = none ∧ th.cp = (v.thread t).cp + 1 ∧ th.rstat = some st ∧ th.rv0 = a ∧ th.rv1 = b := by
  rw [State.completes, State.thread_setThread_same v _ h.exists_thread]
  exact ⟨rfl, rfl, rfl, rfl, rfl⟩

section
variable (h : u.Operates t tables)
include h

theorem State.Operates.ticks (k : Nat) : (u.ticks k).Operates t tables := h.of_sameBlock (u.ticks_sameBlock k)

theorem State.Operates.snapshot_sameBlock (d : Nat) : u.SameBlock (u.snapshot d) :=
  (State.timeCtrlWritten_sameBlock (State.latchIn_accepted h.bus.wf)).trans <| (State.ticks_sameBlock _ d).trans <|
    State.timeCtrlWritten_sameBlock (State.zero_accepted (h.latchedIn.ticks d).bus.wf)

/-- The writes of the four fields and the first write of the pulse. -/
theorem State.Operates.latchedFields_sameBlock (w : Word64) :
    u.SameBlock ((u.fieldsWritten w).timeCtrlWritten u.cfg.latchOut) :=
  (u.fieldsWritten_sameBlock w).trans <|
    State.timeCtrlWritten_sameBlock (State.latchOut_accepted (h.fieldsWritten w).bus.wf)

theorem State.Operates.committed_sameBlock (w : Word64) (a : Nat) : u.SameBlock (u.committed w a) :=
  (h.latchedFields_sameBlock w).trans <| (State.ticks_sameBlock _ a).trans <|
    State.timeCtrlWritten_sameBlock (State.zero_accepted ((h.fieldsWritten w).latchedOut.ticks a).bus.wf)

/-- The second write of CLK_GET's pulse. -/
theorem State.Operates.execClkGet_snapshot (d : Nat) :
    exec .clkGet (((u.timeCtrlWritten u.cfg.latchIn).putAt t .clkGet (.clkGet .latchClear)).ticks d) =
      .next ((u.snapshot d).putAt t .clkGet (.clkGet .field0)) := by
  rw [State.ticks_putAt]
  exact (h.latchedIn.ticks d).execClkGet_latchClear

/-- The second write of CLK_SET's pulse, with which it completes. -/
theorem State.Operates.execClkSet_committed (hw : u.cfg.nsToTicks ns = w) (a : Nat) : exec (.clkSet ns)
    ((((u.fieldsWritten w).timeCtrlWritten u.cfg.latchOut).putAt t (.clkSet ns) (.clkSet .latchClear)).ticks a) =
      .next ((u.committed w a).completes t 0x00 (some w) (u.thread t).rv1) := by
  have hsame := (h.latchedFields_sameBlock w).trans (State.ticks_sameBlock _ a)
  rw [State.ticks_putAt, ← hsame.thread t]
  exact (h.of_sameBlock hsame).execClkSet_latchClear ((congrArg (·.nsToTicks ns) hsame.1).trans hw)

/-- A field that no snapshot holds reads as a draw, so some ticks are read in every case. -/
theorem State.Operates.exists_clkGet_fields : ∃ v ticks, u.DrawsOnly v ∧
    execN .clkGet 4 (u.putAt t .clkGet (.clkGet .field0)) =
      .next (v.completes t 0x00 (some (u.cfg.ticksToNs ticks)) (some ticks)) := by
  refine ⟨_, _, ?_, h.execN_clkGet_fields Prod.mk.eta.symm Prod.mk.eta.symm Prod.mk.eta.symm Prod.mk.eta.symm⟩
  exact (State.readRegister_drawsOnly ..).trans <| (State.readRegister_drawsOnly ..).trans <|
    (State.readRegister_drawsOnly ..).trans (State.readRegister_drawsOnly ..)

end

theorem ticksBefore_zero (e : Sys2Proof.Edge) : ticksBefore e 0 = 0 := by cases e <;> rfl

/-- Settles O53: after its pulse (`State.latchIn_pulse`) the reads give the counter at the edge; without one they give
some ticks. -/
theorem clockGet : Obligations.ClockGet := by
  unfold Obligations.ClockGet
  refine ⟨entryFaults_of_not_lifecycle rfl, fun s t tables ho hb => ?_⟩
  have h := ho.operates hb
  have hsame := h.snapshot_sameBlock 0
  have hread := h.of_sameBlock hsame
  have hwrites : execN .clkGet 6 s = execN .clkGet 4 ((s.snapshot 0).putAt t .clkGet (.clkGet .field0)) := by
    conv_lhs => rw [← ho.place.putAt_self]
    exact (execN_succ_of_next h.execClkGet_latchSet).trans (execN_succ_of_next (h.execClkGet_snapshot 0))
  refine ⟨fun hworks => ?_, ?_⟩
  · have hpulse : s.snapshot 0 = _ := State.latchIn_pulse hb.wf hworks 0
    rw [ticksBefore_zero, BitVec.add_zero] at hpulse
    rw [hpulse] at hwrites hread
    rw [hwrites, hread.execN_clkGet_latched rfl]
    rfl
  · obtain ⟨v, ticks, hv, hreads⟩ := hread.exists_clkGet_fields
    obtain ⟨hdev, hmem, hfaults⟩ := (hsame.trans hv.sameBlock).outside
    obtain ⟨hcfg, -⟩ := hsame
    rw [hcfg] at hreads
    obtain ⟨hrunning, -, hrstat, hrv0, hrv1⟩ := (hread.of_sameBlock hv.sameBlock).hasTurn.completes_results 0x00
      (some (s.cfg.ticksToNs ticks)) (some ticks)
    exact ⟨_, ticks, hwrites.trans hreads, hrunning, hrstat, hrv0, hrv1, hdev, hmem, hfaults, congrArg State.tc hv⟩

/-- Settles O54: the four fields are written, and the pulse commits them (`State.latchOut_pulse`). -/
theorem clockSet : Obligations.ClockSet := by
  unfold Obligations.ClockSet
  refine fun ns => ⟨entryFaults_of_not_lifecycle rfl, ?_⟩
  intro s t tables ho hb ticks
  have h := ho.operates hb
  have hsame := h.committed_sameBlock ticks 0
  have hrun : execN (.clkSet ns) 6 s =
      .next ((s.committed ticks 0).completes t 0x00 (some ticks) (s.thread t).rv1) := by
    conv_lhs => rw [← ho.place.putAt_self]
    exact execN_trans (m := 5) (n := 1) (h.execN_clkSet_latchOut rfl) <|
      (execN_one _ _).trans (h.execClkSet_committed rfl 0)
  refine ⟨fun hworks => ?_, ?_⟩
  · have hpulse : s.committed ticks 0 = _ := State.latchOut_pulse (s := s.fieldsWritten ticks) hb.wf hworks rfl 0
    rw [Nat.zero_sub, BitVec.add_zero] at hpulse
    rw [hrun, hpulse]
    rfl
  · obtain ⟨hrunning, -, hrstat, hrv0, hrv1⟩ := (h.of_sameBlock hsame).hasTurn.completes_results 0x00 (some ticks)
      (s.thread t).rv1
    obtain ⟨hdev, hmem, hfaults⟩ := hsame.outside
    exact ⟨_, hrun, hrunning, hrstat, hrv0, hrv1, hdev, hmem, hfaults, rfl⟩

end Sys2Proof.Machine
end

section
/-! PROOFS. CLK_SET and then CLK_GET, with ticks of the CLOCK around the two active edges (spec 45 R119; 90 C2). -/

namespace Sys2Proof.Machine

open Sys2Proof

variable {s u v : State} {t : Nat} {tables : PerChan Table} {ns : Word64}

/-! ### One run after another -/

theorem andThen_of_next {r : Result} (h : r = .next u) (k : State → Result) : andThen r k = k u := by
  rw [h]
  rfl

/-- The entry step of CLK_GET by a thread with no command in progress. -/
theorem State.Operates.execClkGet_entry (h : u.Operates t tables) (hidle : (u.thread t).running = none) :
    exec .clkGet u = .next (u.putAt t .clkGet .start) := by
  have hi : u.Idle t := ⟨h.hasTurn.turn, h.hasTurn.exists_thread, hidle⟩
  have hcheck : u.entryCheck .clkGet = none := by
    rw [State.entryCheck, h.opened]
    rfl
  rw [exec_of_idle rfl hi.current, hcheck]
  exact State.next_goto hi.turn _ _

theorem State.Operates.completes (h : v.Operates t tables) (st : Byte) (a b : Option Word64) :
    (v.completes t st a b).Operates t tables := by
  refine ⟨⟨h.hasTurn.turn, ?_⟩, h.bus.of_eq rfl rfl, h.opened⟩
  rw [State.completes, State.setThread, List.length_set]
  exact h.hasTurn.exists_thread

/-- The state at the entry step of CLK_GET after CLK_SET of the ticks `w`, with `a` ticks inside its pulse and `b` after
it. -/
def State.afterSet (s : State) (t : Nat) (w : Word64) (a b : Nat) : State :=
  ((s.committed w a).completes t 0x00 (some w) (s.thread t).rv1).ticks b

/-- The state before the field reads of CLK_GET, with `c` ticks before its pulse, `d` inside it and `e` after it. -/
def State.afterSetThenLatch (s : State) (t : Nat) (w : Word64) (a b c d e : Nat) : State :=
  (((s.afterSet t w a b).ticks c).snapshot d).ticks e

section
variable (h : s.Operates t tables)
include h

theorem State.Operates.afterSet (w : Word64) (a b : Nat) : (s.afterSet t w a b).Operates t tables :=
  ((h.of_sameBlock (h.committed_sameBlock w a)).completes _ _ _).ticks b

theorem State.Operates.afterSet_thread (w : Word64) (a b : Nat) :
    ((s.afterSet t w a b).thread t).running = none ∧ ((s.afterSet t w a b).thread t).cp = (s.thread t).cp + 1 := by
  have hsame := h.committed_sameBlock w a
  obtain ⟨hrunning, hcp, -⟩ := (h.of_sameBlock hsame).hasTurn.completes_results 0x00 (some w) (s.thread t).rv1
  rw [State.afterSet, (State.ticks_sameBlock _ b).thread]
  exact ⟨hrunning, hcp.trans (by rw [hsame.thread])⟩

theorem State.Operates.afterSet_cfg (w : Word64) (a b : Nat) : (s.afterSet t w a b).cfg = s.cfg :=
  (State.ticks_sameBlock _ b).1.trans (h.committed_sameBlock w a).1

theorem State.Operates.afterSetThenLatch_sameBlock (w : Word64) (a b c d e : Nat) :
    (s.afterSet t w a b).SameBlock (s.afterSetThenLatch t w a b c d e) :=
  (State.ticks_sameBlock _ c).trans <| (((h.afterSet w a b).ticks c).snapshot_sameBlock d).trans <|
    State.ticks_sameBlock _ e

/-- The run up to the field reads. -/
theorem State.Operates.setThenGet_eq (hat : s.At t (.clkSet ns) .start) (hw : s.cfg.nsToTicks ns = w)
    (a b c d e : Nat) : setThenGet ns a b c d e s =
      execN .clkGet 4 ((s.afterSetThenLatch t w a b c d e).putAt t .clkGet (.clkGet .field0)) := by
  have hentry := h.afterSet w a b
  have hpulse := hentry.ticks c
  have hset := h.execN_clkSet_latchOut hw
  rw [hat.putAt_self] at hset
  have hlatch : exec .clkGet (((s.afterSet t w a b).putAt t .clkGet .start).ticks c) = _ :=
    (congrArg (exec .clkGet) (State.ticks_putAt ..)).trans hpulse.execClkGet_latchSet
  refine (andThen_of_next hset _).trans ?_
  refine (andThen_of_next ((execN_one _ _).trans (h.execClkSet_committed hw a)) _).trans ?_
  refine (andThen_of_next ((execN_one _ _).trans (hentry.execClkGet_entry (h.afterSet_thread w a b).1)) _).trans ?_
  refine (andThen_of_next ((execN_one _ _).trans hlatch) _).trans ?_
  refine (andThen_of_next ((execN_one _ _).trans (hpulse.execClkGet_snapshot d)) _).trans ?_
  exact congrArg (execN .clkGet 4) (State.ticks_putAt ..)

end

/-! ### The ticks between the two active edges -/

/-- How many of the ticks in the gaps of `setThenGet` come between the two active edges (45 R115, R119). -/
def ticksBetween (edge : Sys2Proof.Edge) (a b c d : Nat) : Nat :=
  match edge with
  | .rising => a + b + c
  | .falling => b + c + d

/-- The ticks of the set's pulse after its edge, between the pulses, and of the get's pulse before its edge. -/
theorem ticksBetween_eq (edge : Sys2Proof.Edge) (a b c d : Nat) :
    ticksBetween edge a b c d = a - ticksBefore edge a + b + c + ticksBefore edge d := by
  cases edge with
  | rising => rfl
  | falling => rw [ticksBetween, ticksBefore, ticksBefore, Nat.sub_self, Nat.zero_add]

theorem State.ticks_counter (s : State) (k : Nat) : (s.ticks k).counter = s.counter + BitVec.ofNat 64 k := by
  rw [State.ticks_eq]

theorem State.ticks_snap (s : State) (k : Nat) : (s.ticks k).snap = s.snap := by rw [State.ticks_eq]

theorem State.ticks_tc (s : State) (k : Nat) : (s.ticks k).tc = s.tc := by rw [State.ticks_eq]

theorem State.pulseWorks_of_clear (h : s.tc = 0) (m other : Half) : s.PulseWorks m other := by
  unfold State.PulseWorks
  rw [h]
  split <;> exact BitVec.zero_and

/-- The snapshot of the get holds the ticks set and those between the edges. -/
theorem State.Operates.afterSetThenLatch_snap (h : s.Operates t tables)
    (hworks : s.PulseWorks s.cfg.latchOut s.cfg.latchIn) (w : Word64) (a b c d e : Nat) :
    (s.afterSetThenLatch t w a b c d e).snap =
      tickFields (w + BitVec.ofNat 64 (ticksBetween s.cfg.latchEdge a b c d)) := by
  let u : State := (s.afterSet t w a b).ticks c
  have hcommitted : (s.committed w a).counter = w + BitVec.ofNat 64 (a - ticksBefore s.cfg.latchEdge a) :=
    congrArg State.counter (State.latchOut_pulse (s := s.fieldsWritten w) h.bus.wf hworks rfl a)
  have hcounter : u.counter = (s.committed w a).counter + BitVec.ofNat 64 b + BitVec.ofNat 64 c := by
    rw [State.ticks_counter, State.afterSet, State.ticks_counter]
    rfl
  have hcfg : u.cfg = s.cfg := (State.ticks_sameBlock _ c).1.trans (h.afterSet_cfg w a b)
  have htc : u.tc = 0 := by
    rw [State.ticks_tc, State.afterSet, State.ticks_tc]
    rfl
  have hsnap : (u.snapshot d).snap = _ :=
    congrArg State.snap (State.latchIn_pulse ((h.afterSet w a b).ticks c).bus.wf (u.pulseWorks_of_clear htc _ _) d)
  rw [State.afterSetThenLatch, State.ticks_snap, hsnap, hcfg, hcounter, hcommitted]
  simp only [ticksBetween_eq, BitVec.ofNat_add, BitVec.add_assoc]

/-! ### The bound of one tick -/

/-- Ticks rounded up and nanoseconds rounded down lose less than a tick (45 R116, R119). -/
theorem nanoseconds_within_tick {n rate : Nat} (hrate : 0 < rate) :
    n ≤ ceilDiv (n * rate) 1000000000 * 1000000000 / rate ∧
      ceilDiv (n * rate) 1000000000 * 1000000000 / rate * rate < n * rate + 1000000000 := by
  have hlow : n * rate ≤ ceilDiv (n * rate) 1000000000 * 1000000000 := by
    unfold ceilDiv
    omega
  have hhigh : ceilDiv (n * rate) 1000000000 * 1000000000 < n * rate + 1000000000 := by
    unfold ceilDiv
    omega
  exact ⟨(Nat.le_div_iff_mul_le hrate).mpr hlow, (Nat.div_mul_le_self _ rate).trans_lt hhigh⟩

/-- Settles O55: the run is that of `State.Operates.setThenGet_eq`, the get reads the ticks set and those between the
edges, and the bound is that of the two roundings. -/
theorem setThenGetWithinOneTick : Obligations.SetThenGetWithinOneTick := by
  unfold Obligations.SetThenGetWithinOneTick
  intro s t ns tables a b c d e ho hb hworks rate m k hlt
  have h := ho.operates hb
  have hk : ticksBetween s.cfg.latchEdge a b c d = k := rfl
  let latched := s.afterSetThenLatch t (BitVec.ofNat 64 m) a b c d e
  have hsame : (s.afterSet t (BitVec.ofNat 64 m) a b).SameBlock latched := h.afterSetThenLatch_sameBlock ..
  have hread := (h.afterSet (BitVec.ofNat 64 m) a b).of_sameBlock hsame
  have hsnap : latched.snap = _ := h.afterSetThenLatch_snap hworks ..
  rw [hk, ← BitVec.ofNat_add] at hsnap
  have hrun := (h.setThenGet_eq ho.place rfl a b c d e).trans (hread.execN_clkGet_latched hsnap)
  have hns : latched.cfg.ticksToNs (BitVec.ofNat 64 (m + k)) = BitVec.ofNat 64 ((m + k) * 1000000000 / rate) := by
    rw [hsame.1, h.afterSet_cfg, Config.ticksToNs, BitVec.toNat_ofNat, Nat.mod_eq_of_lt hlt]
    rfl
  rw [hns] at hrun
  obtain ⟨hrunning, hcp, hrstat, hrv0, hrv1⟩ := hread.hasTurn.completes_results 0x00
    (some (BitVec.ofNat 64 ((m + k) * 1000000000 / rate))) (some (BitVec.ofNat 64 (m + k)))
  rw [hsame.thread, (h.afterSet_thread _ a b).2] at hcp
  refine ⟨_, _, hrun, hrunning, hcp, hrstat, hrv1, hrv0, rfl, fun hzero hfits => ?_⟩
  have hrate : 0 < rate := by
    obtain ⟨-, -, -, hrate, -⟩ := of_decide_eq_true (Config.wf_scalarsOk hb.wf)
    exact hrate
  rw [hzero, Nat.add_zero, BitVec.toNat_ofNat, Nat.mod_eq_of_lt hfits]
  exact nanoseconds_within_tick hrate

end Sys2Proof.Machine
end

section
/-! PROOFS. What a step does to the fault records (spec 60 R126): it raises one fault and changes nothing else, or it raises
none. -/

namespace Sys2Proof.Machine

open Sys2Proof

variable {s s' u : State} {i : Instr} {t : Nat}

/-- The agent raises one fault and does nothing else, or it leaves the fault records as they are. -/
def State.FaultsOrNot (s u : State) : Prop := (∃ code info, u = s.raised code info) ∨ u.faults = s.faults

theorem State.Reads.faults (h : s.Reads u) : u.faults = s.faults := by rw [h.1]

theorem State.writeRegister_faults {r : Reg} {off : Nat} {x : Half} (h : s.writeRegister r off x = .done () u) :
    u.faults = s.faults := by
  obtain ⟨-, -, -, -, -, -, -, hfaults, -⟩ := State.writeRegister_sameBlock h
  exact hfaults

theorem State.writeCtrl_faults {c : Chan} {off : Nat} {x : Half} (h : s.writeCtrl c off x = .done () u) :
    u.faults = s.faults :=
  State.writeRegister_faults (r := .ctrl c) h

theorem State.mapDone_faults (s : State) (m : MapStep) : (s.mapDone m).faults = s.faults := by cases m <;> rfl

/-- Of the moves of a command only a fault touches the records. -/
theorem State.Move.faultsOrNot (h : s.Move i s') : s.FaultsOrNot s' := by
  cases h with
  | halt => exact .inl ⟨_, _, rfl⟩
  | stay | enter | enterOpen | enterClose | memWr8 | query | acqHead | markRel | markTail | drainMark | drainAck | waited |
    relMark | close | openStart | openMemWrite | openMemWriteEnd => exact .inr rfl
  | regRd | drainSeen | drainStatus | drainEnd | drainAcquire | drainWait | clkRead | clkGot | openFail | openRead =>
    have hfaults := ‹s.Reads _›.faults
    exact .inr hfaults
  | memRd8 | openTest | openTestEnd | openMemRead | openMemReadEnd =>
    have hfaults := ‹s.DrawsOnly _›.reads.faults
    exact .inr hfaults
  | openMap hash seed m u hc hu => exact .inr ((u.mapDone_faults m).trans hu.reads.faults)
  | regWr | clkWrite | clkDone | openWrite =>
    have hfaults := State.writeRegister_faults ‹s.writeRegister _ _ _ = _›
    exact .inr hfaults
  | relFirst | relOnly | relSecond =>
    have hfaults := State.writeCtrl_faults ‹s.writeCtrl _ _ _ = _›
    exact .inr hfaults

theorem State.dmaStep_faultsOrNot {c : Chan} (h : s.dmaStep c = .next s') : s.FaultsOrNot s' := by
  rcases State.dmaStep_cases h with rfl | hraised | ⟨-, _, _, _, _, _, u, -, hu, rfl⟩ | ⟨-, _, _, _, _, u, -, hu, rfl⟩
  · exact .inr rfl
  · exact .inl hraised
  all_goals exact .inr hu.reads.faults

theorem State.loaderStep_faults (h : s.loaderStep = .next s') : s'.faults = s.faults := by
  rcases State.loaderStep_cases h with rfl | ⟨hash, seed, -, rfl⟩
  · rfl
  · exact s.draw_faults

theorem agentStep_faultsOrNot (hwf : s.cfg.wf = true) (h : agentStep s = .next s') : s.FaultsOrNot s' := by
  rcases agentStep_cases hwf h with rfl | hraised | ⟨_, _, -, -, hm⟩ | ⟨c, -, hd⟩ | ⟨-, rfl⟩ | ⟨-, hl⟩
  · exact .inr rfl
  · exact .inl hraised
  · exact hm.faultsOrNot
  · exact State.dmaStep_faultsOrNot hd
  · exact .inr rfl
  · exact .inr (State.loaderStep_faults hl)

/-- A step that leaves a fault is the raising of that fault: no next agent is chosen. -/
theorem step_eq_raised (h : step s = .next s') (hf : s'.faults ≠ []) : ∃ code info, s' = s.raised code info := by
  obtain ⟨hnone, hc, u, hu, rfl⟩ := step_next h
  rw [State.schedule_faults] at hf
  rw [State.schedule_of_faults hf]
  exact (agentStep_faultsOrNot (State.configOk_wf hc) hu).resolve_right fun e => hf (e.trans hnone)

theorem State.raised_eq_withFault (s : State) (code : FaultCode) (info : FaultInfo) :
    s.raised code info = s.withFault code s.turn s.faultIndex info := rfl

theorem State.faultIndex_of_host (h : s.turn = .host t) : s.faultIndex = some (s.thread t).cp := by
  rw [State.faultIndex, h]

theorem State.faultIndex_of_not_host (h : ∀ t, s.turn ≠ .host t) : s.faultIndex = none := by
  cases ht : s.turn with
  | host t => exact absurd ht (h t)
  | dma | clock | loader => rw [State.faultIndex, ht]

theorem step_of_faults (h : s.faults ≠ []) : step s = .fault .halted := if_pos h

theorem State.final_of_faults (h : s.faults ≠ []) : s.final = false := by
  rw [State.final, List.isEmpty_eq_false_iff.mpr h, Bool.false_and]

/-- Settles O10: a step that leaves a fault is `State.raised`, whose record has the turn and its command index; and a
state with a fault has no step. -/
theorem faultHaltsTheMachine : Obligations.FaultHaltsTheMachine := by
  unfold Obligations.FaultHaltsTheMachine
  refine ⟨fun s s' h hf => ?_, fun s hf => ⟨step_of_faults hf, State.final_of_faults hf⟩⟩
  obtain ⟨code, info, rfl⟩ := step_eq_raised h hf
  exact ⟨code, info, s.faultIndex, s.raised_eq_withFault code info, fun t => State.faultIndex_of_host,
    State.faultIndex_of_not_host⟩

end Sys2Proof.Machine
end

section
/-! PROOFS. The entry step of every command by its checks (spec 60 R121). -/

namespace Sys2Proof.Machine

open Sys2Proof

variable {s : State} {i : Instr} {t : Nat}

theorem execOpenDev_of_idle (h : s.Idle t) (hash : Word64) (seed : Half) :
    exec (.openDev hash seed) s = s.start (.openDev hash seed) s.entryCheckOpen := by
  rw [exec, execOpenDev, State.lifecycleStep, h.current]

theorem State.entryCheckOpen_of_not_owner (h : s.tid ≠ 0) :
    s.entryCheckOpen = some (.lifecycleOwner, .thread s.tid) := if_pos h

theorem State.entryCheckOpen_of_not_closed (ht : s.tid = 0) (h : s.dev ≠ .closed) :
    s.entryCheckOpen = some (.alreadyOpen, .phase s.dev.phase) := by
  rw [State.entryCheckOpen, if_neg (not_not.mpr ht)]
  cases hd : s.dev with
  | closed => exact absurd hd h
  | opening | opened => rfl

theorem State.entryCheckOpen_of_closed (ht : s.tid = 0) (h : s.dev = .closed) : s.entryCheckOpen = none := by
  rw [State.entryCheckOpen, if_neg (not_not.mpr ht), h]

theorem State.entryCheck_of_owner (h : s.IsOpen) (ho : ∀ c, i.ownedChan = some c → s.tid = s.cfg.owner.get c) :
    s.entryCheck i = none := by
  obtain ⟨tables, hd⟩ := h
  rw [State.entryCheck, hd]
  cases hc : i.ownedChan with
  | none => rfl
  | some c => exact if_pos (ho c hc)

/-- OPEN and CLOSE of a thread other than 0. -/
theorem State.Idle.exec_lifecycleOwner (h : s.Idle t) (hl : i.isLifecycle = true) (hne : t ≠ 0) :
    exec i s = .next (s.faultBy t .lifecycleOwner (.thread t)) := by
  cases i with
  | openDev hash seed =>
    rw [execOpenDev_of_idle h, State.entryCheckOpen_of_not_owner (h.tid ▸ hne), State.start_of_fault h.turn, h.tid]
  | closeDev => exact (closeCommand.1 s t h).1 hne
  | _ => cases hl

theorem State.Idle.exec_alreadyOpen (h : s.Idle t) (h0 : t = 0) (hd : s.dev ≠ .closed) (hash : Word64) (seed : Half) :
    exec (.openDev hash seed) s = .next (s.faultBy t .alreadyOpen (.phase s.dev.phase)) := by
  rw [execOpenDev_of_idle h, State.entryCheckOpen_of_not_closed (h.tid.trans h0) hd, State.start_of_fault h.turn]

/-- What the entry checks of 60 R121 let thread `t` start. -/
def State.MayStart (s : State) (t : Nat) (i : Instr) : Prop :=
  (∃ hash seed, i = .openDev hash seed ∧ t = 0 ∧ s.dev = .closed) ∨ (i = .closeDev ∧ t = 0 ∧ s.IsOpen) ∨
    (i.isLifecycle = false ∧ s.IsOpen ∧ ∀ c, i.ownedChan = some c → t = s.cfg.owner.get c)

theorem State.Idle.exec_starts (h : s.Idle t) (hm : s.MayStart t i) : exec i s = .next (s.putAt t i .start) := by
  rcases hm with ⟨hash, seed, rfl, h0, hd⟩ | ⟨rfl, h0, ho⟩ | ⟨hl, ho, hown⟩
  · rw [execOpenDev_of_idle h, State.entryCheckOpen_of_closed (h.tid.trans h0) hd]
    exact State.next_goto h.turn _ _
  · exact (closeCommand.1 s t h).2.2 h0 ho
  · rw [exec_of_idle hl h.current, State.entryCheck_of_owner ho (h.tid.symm ▸ hown)]
    exact State.next_goto h.turn _ _

@[simp] theorem State.faultBy_schedule (s : State) (t : Nat) (code : FaultCode) (info : FaultInfo) :
    (s.faultBy t code info).schedule = s.faultBy t code info :=
  State.schedule_of_faults (List.append_ne_nil_of_right_ne_nil _ (List.cons_ne_nil _ _))

/-- Settles O8: the step is `exec` of the decoded command, whose entry checks are `State.entryCheckOpen`,
`State.entryCheckClose` and `State.entryCheck`. -/
theorem entryStepChecks : Obligations.EntryStepChecks := by
  unfold Obligations.EntryStepChecks
  intro s t w h hf hc hw
  refine ⟨fun e hd => (illegalWord_of_error hd).2 s t h hf hc hw, fun i hd => ?_⟩
  obtain ⟨hnext, -⟩ := stepRunsDecodedCommand s t i hf hc h.turn h.exists_thread (.inr ⟨h.idle, w, hw, hd⟩)
  have hfault {code info} (he : exec i s = .next (s.faultBy t code info)) :
      step s = .next (s.faultBy t code info) := by
    rw [hnext _ he, State.faultBy_schedule]
  refine ⟨fun hl hne => ?_, fun hash seed hi h0 hdev => ?_, fun hi h0 hn => ?_, fun hl hn => ?_, fun c hown ho hne => ?_,
    fun hm => ?_⟩
  · exact hfault (h.exec_lifecycleOwner hl hne)
  · subst hi
    exact hfault (h.exec_alreadyOpen h0 hdev hash seed)
  · subst hi
    exact hfault ((closeCommand.1 s t h).2.1 h0 hn)
  · exact hfault ((entryFaults_of_not_lifecycle hl s t h).1 hn)
  · exact hfault ((entryFaults_of_not_lifecycle (Instr.not_lifecycle_of_ownedChan hown) s t h).2 ho c hown hne)
  · have hstart := h.exec_starts hm
    exact ⟨hstart, hnext _ hstart⟩

end Sys2Proof.Machine
end

section
/-! PROOFS. The later steps of a command with the device not OPEN or after a CLOSE, and what ends OPEN (spec 60 R122). -/

namespace Sys2Proof.Machine

open Sys2Proof

variable {s s' u : State} {i : Instr} {t : Nat} {p : Point}

/-! ### NOT_OPEN in a later step -/

/-- A later step with the device not OPEN, or after a CLOSE, is the fault NOT_OPEN whatever the command does. -/
theorem State.At.commandStep_notOpen (h : s.At t i p) (hp : ¬ s.IsOpen ∨ p = .cut)
    (body : PerChan Table → Point → Result) :
    s.commandStep i body = .next (s.faultBy t .notOpen (.opcode i.opcode)) := by
  have hraise : s.raise .notOpen (.opcode i.opcode) = .next (s.faultBy t .notOpen (.opcode i.opcode)) :=
    congrArg _ (State.raised_of_host h.turn _ _)
  rw [State.commandStep, h.current]
  simp only [↓reduceIte]
  split
  · exact hraise
  · next hcut =>
    split
    · next tables hd => exact absurd (hp.resolve_right hcut) (not_not.mpr ⟨tables, hd⟩)
    all_goals exact hraise

theorem State.At.simpleStep_notOpen (h : s.At t i p) (hp : ¬ s.IsOpen ∨ p = .cut) (body : PerChan Table → Result) :
    s.simpleStep i body = .next (s.faultBy t .notOpen (.opcode i.opcode)) :=
  h.commandStep_notOpen hp _

theorem State.At.drainCommand_notOpen (h : s.At t i p) (hp : ¬ s.IsOpen ∨ p = .cut) (c : Chan)
    (done : PerChan Table → Nat → State → Result) :
    s.drainCommand i c done = .next (s.faultBy t .notOpen (.opcode i.opcode)) :=
  h.commandStep_notOpen hp _

theorem State.At.exec_notOpen (h : s.At t i p) (hl : i.isLifecycle = false) (hp : ¬ s.IsOpen ∨ p = .cut) :
    exec i s = .next (s.faultBy t .notOpen (.opcode i.opcode)) := by
  cases i with
  | openDev | closeDev => cases hl
  | chAcquire | chRelease | clkGet | clkSet =>
    simp only [exec, execChAcquire, execChRelease, execClkGet, execClkSet, h.commandStep_notOpen hp]
  | chTryAcquire | pollDrain => exact h.drainCommand_notOpen hp _ _
  | _ => exact h.simpleStep_notOpen hp _

/-! ### What ends OPEN, and what is cut off by it -/

theorem State.IsOpen.of_dev (h : s.IsOpen) (hd : u.dev = s.dev) : u.IsOpen := by rwa [State.IsOpen, hd]

/-- Of all the agents' steps only that of thread 0's CLOSE ends OPEN. -/
theorem agentStep_isOpen_or_close (hwf : s.cfg.wf = true) (hs : s.LifecycleInv) (ho : s.IsOpen)
    (h : agentStep s = .next s') :
    s'.IsOpen ∨ (s.turn = .host 0 ∧ (s.thread 0).running = some ⟨.closeDev, .start⟩ ∧
      s' = s.cutOff.unwind.finished .ok none none) := by
  rcases agentStep_cases hwf h with rfl | ⟨_, _, rfl⟩ | ⟨t, i, ht, -, hm⟩ | ⟨c, -, hd⟩ | ⟨-, rfl⟩ | ⟨-, hl⟩
  · exact .inl ho
  · exact .inl ho
  · rcases hm.isOpen_or_close hs ho with ho' | ⟨hc, hclosed⟩
    · exact .inl ho'
    · obtain ⟨h0, hr⟩ := hs.tid_eq hc rfl
      rw [State.tid_of_host ht] at h0
      exact .inr ⟨h0 ▸ ht, hr, hclosed⟩
  · exact .inl (ho.of_dev (State.dmaStep_dev hd))
  · exact .inl ho
  · exact .inl (ho.of_dev (State.loaderStep_dev hl))

/-- The state that thread 0's CLOSE leaves has every other command in progress cut off. -/
theorem State.closed_running (ht : s.turn = .host 0) (hr0 : (s.thread 0).running = some ⟨.closeDev, .start⟩)
    (hr : (s.thread t).running = some ⟨i, p⟩) (hl : i.isLifecycle = false) :
    ((s.cutOff.unwind.finished .ok none none).thread t).running = some ⟨i, .cut⟩ := by
  have hne : t ≠ s.cutOff.unwind.tid := by
    rw [State.unwind_tid, State.cutOff_tid, State.tid_of_host ht]
    rintro rfl
    cases hr.symm.trans hr0
    cases hl
  rw [State.finished, State.thread_setThread_ne _ _ hne, State.thread_congr (State.unwind_threads _), State.cutOff_thread,
    Thread.cutOff_of_command hr hl]

theorem Thread.cutOff_running_of_cut {th : Thread} (h : th.running = some ⟨i, .cut⟩) :
    th.cutOff.running = some ⟨i, .cut⟩ := by
  rcases th.cutOff_eq with hcut | ⟨j, p, hr, -, hcut⟩
  · rw [hcut, h]
  · cases h.symm.trans hr
    rw [hcut]

/-- A command that is cut off stays so in the steps of the other agents. -/
theorem agentStep_keepsCut (hwf : s.cfg.wf = true) (h : agentStep s = .next s') (ht : s.turn ≠ .host t)
    (hr : (s.thread t).running = some ⟨i, .cut⟩) : (s'.thread t).running = some ⟨i, .cut⟩ := by
  rcases agentStep_thread_other hwf h ht with hsame | ⟨-, rfl, _, _, hload, -⟩ | ⟨_, -, -, hcut⟩
  · rw [hsame, hr]
  · cases hr.symm.trans hload
  · rw [hcut, Thread.cutOff_running_of_cut hr]

/-- Settles O9: NOT_OPEN by `State.At.exec_notOpen`, the end of OPEN by `agentStep_isOpen_or_close`, and what is cut off by
`agentStep_keepsCut` and `step_cutOffInv`. -/
theorem laterStepsCheckOpen : Obligations.LaterStepsCheckOpen := by
  unfold Obligations.LaterStepsCheckOpen
  refine ⟨fun s t i p h hl hp => h.exec_notOpen hl hp, fun s s' hs h ho hn => ?_, fun s s' t i h hr ht => ?_,
    fun s s' hs hcut h => step_cutOffInv hs hcut h⟩
  · obtain ⟨-, hc, u, hu, rfl⟩ := step_next h
    rw [State.IsOpen, State.schedule_dev] at hn
    obtain ⟨ht, hr0, rfl⟩ := (agentStep_isOpen_or_close (State.configOk_wf hc) hs ho hu).resolve_left hn
    refine ⟨ht, hr0, fun t i p hr hl => ?_⟩
    rw [State.schedule_thread, State.closed_running ht hr0 hr hl]
  · obtain ⟨-, hc, u, hu, rfl⟩ := step_next h
    rw [State.schedule_thread, agentStep_keepsCut (State.configOk_wf hc) hu ht hr]

end Sys2Proof.Machine
end

section
/-! PROOFS. The step that opens the device finds the queues as the reset pulse left them (spec 70 R139 and R150). -/

namespace Sys2Proof.Machine

open Sys2Proof

variable {s s' u : State}

/-- The schedule's choice of the next agent touches no queue. -/
theorem State.QueuesEmpty.schedule (h : u.QueuesEmpty) : u.schedule.QueuesEmpty := by
  rw [State.QueuesEmpty, u.schedule_descQ, u.schedule_cmplQ, u.schedule_mm2sStart]
  exact h

/-- Of all the agents' steps only that of a command opens the device, and the command is an OPEN past its reset pulse. -/
theorem agentStep_queuesEmpty_of_opens (hwf : s.cfg.wf = true) (hs : s.LifecycleInv) (hq : s.QuietOpenInv)
    (hn : ¬ s.IsOpen) (ho : s'.IsOpen) (h : agentStep s = .next s') : s'.QueuesEmpty := by
  have hkept (hd : s'.dev = s.dev) : s'.QueuesEmpty := absurd (ho.of_dev hd.symm) hn
  rcases agentStep_cases hwf h with rfl | ⟨_, _, rfl⟩ | ⟨_, _, -, -, hm⟩ | ⟨c, -, hd⟩ | ⟨-, rfl⟩ | ⟨-, hl⟩
  · exact hkept rfl
  · exact hkept rfl
  · exact hm.queuesEmpty_of_opens hs hq hn ho
  · exact hkept (State.dmaStep_dev hd)
  · exact hkept rfl
  · exact hkept (State.loaderStep_dev hl)

theorem step_queuesEmpty_of_opens (hs : s.LifecycleInv) (hq : s.QuietOpenInv) (hn : ¬ s.IsOpen) (ho : s'.IsOpen)
    (h : step s = .next s') : s'.QueuesEmpty := by
  obtain ⟨-, hok, u, hu, rfl⟩ := step_next h
  exact (agentStep_queuesEmpty_of_opens (State.configOk_wf hok) hs hq hn (ho.of_dev u.schedule_dev.symm) hu).schedule

/-- Settles O34: the invariant by `step_quietOpenInv`, and the step that opens the device by `step_queuesEmpty_of_opens`,
since an OPEN opens it only from a point past its reset pulse. -/
theorem queuesStayEmptyAfterResetPulse : Obligations.QueuesStayEmptyAfterResetPulse := by
  unfold Obligations.QueuesStayEmptyAfterResetPulse
  refine ⟨fun s s' hs hq h => step_quietOpenInv hs hq h, fun s s' hs hq h hd ho => ?_⟩
  have hn : ¬ s.IsOpen := by
    rintro ⟨tables, ht⟩
    cases hd.symm.trans ht
  exact step_queuesEmpty_of_opens hs hq hn ho h

end Sys2Proof.Machine
end
